-- ==== Sys2Proof/Word.lean ====
section
/-!
DEFINITION. The word types of QRECC (00_scope R9): a codeword, field element or coefficient has 8 bits, an index operand
16, a command word and a response's data 32.
-/

namespace Sys2Proof

/-- A codeword, field element, coefficient, row or column: "codeword, field element and coefficient 8 bits; row and
column 8 bits" (00_scope R9). -/
abbrev Byte := BitVec 8

/-- The 16-bit operand W of a command (30_encoding R90). -/
abbrev Half := BitVec 16

/-- A command word or a response's data: 32 bits (00_scope R9). -/
abbrev Word := BitVec 32

end Sys2Proof
end

