-- ==== Sys2Proof/Syntax.lean ====
section
/-!
DEFINITION. The commands of QRECC as syntax (30_encoding R91, R94, R99): the 25 operations with their operands, the four
formats, a row of the opcode table, the pseudo-instructions, the error-correction levels a command can name, and the moves
the host can make (10_state R48).
An operand has its field's width as its type, so no term of `Instr` carries an operand its command word cannot hold.
-/

namespace Sys2Proof

/-- The 25 operations of 30_encoding R94, one constructor per row of opcode_table.json. -/
inductive Instr where
  /-- SYS.NOP (R250) -/
  | sysNop
  /-- SYS.RESET (R251) -/
  | sysReset
  /-- SYS.RDREG b, b = register number (R252) -/
  | sysRdreg (b : Byte)
  /-- GF.ADD a, b, field elements (R135) -/
  | gfAdd (a b : Byte)
  /-- GF.MUL a, b, field elements (R136) -/
  | gfMul (a b : Byte)
  /-- GF.EXP w, w = table index (R137) -/
  | gfExp (w : Half)
  /-- GF.LOG b, b = field element (R138) -/
  | gfLog (b : Byte)
  /-- GF.POW a, b, a = base, b = exponent (R139) -/
  | gfPow (a b : Byte)
  /-- RS.SETN b, b = n (R155) -/
  | rsSetn (b : Byte)
  /-- RS.GEN (R156) -/
  | rsGen
  /-- RS.CLR (R157) -/
  | rsClr
  /-- RS.PUSH b, b = data codeword (R158) -/
  | rsPush (b : Byte)
  /-- RS.ENC (R159) -/
  | rsEnc
  /-- RS.RDGEN b, b = coefficient index (R160) -/
  | rsRdgen (b : Byte)
  /-- RS.RDREM b, b = ECC codeword index (R161) -/
  | rsRdrem (b : Byte)
  /-- RS.RDDAT b, b = data codeword index (R162) -/
  | rsRddat (b : Byte)
  /-- RS.RDBIT w, w = bit index (R163) -/
  | rsRdbit (w : Half)
  /-- ZZ.SETVER b, b = version (R202) -/
  | zzSetver (b : Byte)
  /-- ZZ.FIX a, b, a = row, b = col (R203) -/
  | zzFix (a b : Byte)
  /-- ZZ.START b, b = mode (R204) -/
  | zzStart (b : Byte)
  /-- ZZ.NEXT (R205) -/
  | zzNext
  /-- ZZ.COUNT (R208) -/
  | zzCount
  /-- ZZ.RDFIX a, b, a = row, b = col (R214) -/
  | zzRdfix (a b : Byte)
  /-- FMT.ENC a, b, a = level selector, b = mask identifier (R240) -/
  | fmtEnc (a b : Byte)
  /-- FMT.BCH b, b = 5-bit payload (R241) -/
  | fmtBch (b : Byte)
  deriving DecidableEq, Repr

/-- The four formats of a command word (30_encoding R91). -/
inductive Format where
  /-- no operand -/
  | z0
  /-- b = cmd[7:0] -/
  | b
  /-- a = cmd[15:8], b = cmd[7:0] -/
  | ab
  /-- w = cmd[15:0] -/
  | w
  deriving DecidableEq, Repr

/-- A row of the opcode table as 30_encoding R94 and R100 give it: opcode, mnemonic, format, match and mask. -/
structure Row where
  opc : Byte
  mnemonic : String
  format : Format
  matchBits : Word
  mask : Word
  deriving DecidableEq, Repr

/-- The pseudo-instructions of the spec's assembler (30_encoding R99). -/
inductive Pseudo where
  /-- RS.LOAD b0, b1, ..., bm -/
  | rsLoad (bs : List Byte)
  /-- RS.BLOCK n -/
  | rsBlock (n : Byte)
  /-- ZZ.FIXRECT r0, c0, r1, c1 -/
  | zzFixrect (r0 c0 r1 c1 : Byte)
  /-- ZZ.DRAIN m -/
  | zzDrain (m : Nat)
  deriving DecidableEq, Repr

/-- The error-correction levels {L, M, Q, H} (43_format_bch R231). -/
inductive Level where
  | L
  | M
  | Q
  | H
  deriving DecidableEq, Repr

/-- What the host can do: "assert rst; issue any 32-bit command word; take responses" (10_state R48). -/
inductive HostMove where
  /-- the pin rst sampled high (70_reset_and_hazards R300) -/
  | rst
  /-- a command word presented on cmd_data, the response to the command before it having been taken -/
  | issue (w : Word)
  /-- the response presented by the block taken, no further command issued yet -/
  | take
  deriving DecidableEq, Repr

end Sys2Proof
end

