-- ==== Sys2Proof/WellFormed.lean ====
section
/-!
DEFINITION. Well-formedness of the syntax: what 30_encoding R91 asks of a row of the opcode table, that no two rows of a
table match one word (R91), and the side conditions R99 writes on two of the pseudo-instructions.
A term of `Instr` is well-formed by its type: each operand is exactly as wide as its field (R92), and the decoder "does not
check operand values" (R92), so an operand outside its legal range is a command that raises, not an ill-formed one.
-/

namespace Sys2Proof

/-- Row check 1: the match bits lie under the mask, so that `cmd and mask = match` can hold (R91). -/
def Row.matchUnderMask (r : Row) : Bool := r.matchBits &&& r.mask == r.matchBits

/-- Row check 2: the mask includes bits 31:24 (R91 "every mask includes bits 31:24"). -/
def Row.maskCoversOpc (r : Row) : Bool := r.mask &&& 0xFF000000#32 == 0xFF000000#32

/-- Row check 3: `match` is `OPC << 24` (R94). -/
def Row.matchIsOpc (r : Row) : Bool := r.matchBits == r.opc.setWidth 32 <<< 24

/-- A row of the opcode table is well-formed (R91, R94). -/
def Row.wf (r : Row) : Bool := r.matchUnderMask && r.maskCoversOpc && r.matchIsOpc

/-- Two rows match no word in common: their match bits differ where both masks look (R91). -/
def Row.disjoint (p q : Row) : Bool := p.matchBits &&& q.mask != q.matchBits &&& p.mask

/-- A table is well-formed: every row is, and no word matches two of its rows (R91). -/
def tableWf : List Row → Bool
  | [] => true
  | r :: rs => r.wf && rs.all r.disjoint && tableWf rs

/-- R99: `RS.LOAD` names at least one codeword b0; `ZZ.FIXRECT r0, c0, r1, c1` needs r0 ≤ r1 and c0 ≤ c1. -/
def Pseudo.wf : Pseudo → Bool
  | .rsLoad bs => !bs.isEmpty
  | .rsBlock _ => true
  | .zzFixrect r0 c0 r1 c1 => decide (r0.toNat ≤ r1.toNat) && decide (c0.toNat ≤ c1.toNat)
  | .zzDrain _ => true

end Sys2Proof
end

