-- ==== Sys2Proof/Decode.lean ====
section
/-!
DEFINITION. Decoding and encoding of command words (30_encoding R90 to R100): the fields, the formats' must-be-zero bits,
the total decoder that rejects by name, the opcode table with its masks, the encoder, and the expansion of the
pseudo-instructions.
-/

namespace Sys2Proof

/-- OPC, bits 31:24 of the command word (R90). -/
def cmdOpc (cmd : Word) : Byte := cmd.extractLsb' 24 8

/-- A, bits 15:8 (R90). -/
def cmdA (cmd : Word) : Byte := cmd.extractLsb' 8 8

/-- B, bits 7:0 (R90). -/
def cmdB (cmd : Word) : Byte := cmd.extractLsb' 0 8

/-- W, bits 15:0, "the same bits as A and B read as one 16-bit operand" (R90). -/
def cmdW (cmd : Word) : Half := cmd.extractLsb' 0 16

/-- The must-be-zero bits of each format (R91). -/
def Format.mustBeZero : Format → Word
  | .z0 => 0x00FFFFFF#32
  | .b => 0x00FFFF00#32
  | .ab => 0x00FF0000#32
  | .w => 0x00FF0000#32

/-- The mask of each format (R91): OPC and the must-be-zero bits. -/
def Format.mask (f : Format) : Word := 0xFF000000#32 ||| f.mustBeZero

/-- Why a word is illegal (R95 steps 1 and 2, R96). -/
inductive Illegal where
  /-- OPC is not in the opcode map -/
  | unknownOpc (opc : Byte)
  /-- a must-be-zero bit of the opcode's format is 1 -/
  | mustBeZero (f : Format)
  deriving DecidableEq, Repr

/-- What a command word decodes to: one operation with its operands, or illegal (R95). -/
inductive Decoded where
  | instr (i : Instr)
  | illegal (why : Illegal)
  deriving DecidableEq, Repr

/-- The opcode map of R94: the format of an opcode and the operation it makes of the operand fields; `none` for the 231
unassigned opcodes. -/
def lookupOpc (opc : Byte) (a b : Byte) (w : Half) : Option (Format × Instr) :=
  match opc.toNat with
  | 0x00 => some (.z0, .sysNop)
  | 0x01 => some (.z0, .sysReset)
  | 0x02 => some (.b, .sysRdreg b)
  | 0x10 => some (.ab, .gfAdd a b)
  | 0x11 => some (.ab, .gfMul a b)
  | 0x12 => some (.w, .gfExp w)
  | 0x13 => some (.b, .gfLog b)
  | 0x14 => some (.ab, .gfPow a b)
  | 0x20 => some (.b, .rsSetn b)
  | 0x21 => some (.z0, .rsGen)
  | 0x22 => some (.z0, .rsClr)
  | 0x23 => some (.b, .rsPush b)
  | 0x24 => some (.z0, .rsEnc)
  | 0x25 => some (.b, .rsRdgen b)
  | 0x26 => some (.b, .rsRdrem b)
  | 0x27 => some (.b, .rsRddat b)
  | 0x28 => some (.w, .rsRdbit w)
  | 0x30 => some (.b, .zzSetver b)
  | 0x31 => some (.ab, .zzFix a b)
  | 0x32 => some (.b, .zzStart b)
  | 0x33 => some (.z0, .zzNext)
  | 0x34 => some (.z0, .zzCount)
  | 0x35 => some (.ab, .zzRdfix a b)
  | 0x40 => some (.ab, .fmtEnc a b)
  | 0x41 => some (.b, .fmtBch b)
  | _ => none

/-- Decoding, total on every word (R95): look OPC up, check the format's must-be-zero bits, extract the operands. It reads
no state. -/
def decode (cmd : Word) : Decoded :=
  match lookupOpc (cmdOpc cmd) (cmdA cmd) (cmdB cmd) (cmdW cmd) with
  | none => .illegal (.unknownOpc (cmdOpc cmd))
  | some (f, i) => if cmd &&& f.mustBeZero = 0#32 then .instr i else .illegal (.mustBeZero f)

/-- The operation a word decodes to, if it is legal. -/
def decode? (cmd : Word) : Option Instr :=
  match decode cmd with
  | .instr i => some i
  | .illegal _ => none

/-- The operation code of an operation (R94). -/
def opcOf : Instr → Byte
  | .sysNop => 0x00#8
  | .sysReset => 0x01#8
  | .sysRdreg _ => 0x02#8
  | .gfAdd _ _ => 0x10#8
  | .gfMul _ _ => 0x11#8
  | .gfExp _ => 0x12#8
  | .gfLog _ => 0x13#8
  | .gfPow _ _ => 0x14#8
  | .rsSetn _ => 0x20#8
  | .rsGen => 0x21#8
  | .rsClr => 0x22#8
  | .rsPush _ => 0x23#8
  | .rsEnc => 0x24#8
  | .rsRdgen _ => 0x25#8
  | .rsRdrem _ => 0x26#8
  | .rsRddat _ => 0x27#8
  | .rsRdbit _ => 0x28#8
  | .zzSetver _ => 0x30#8
  | .zzFix _ _ => 0x31#8
  | .zzStart _ => 0x32#8
  | .zzNext => 0x33#8
  | .zzCount => 0x34#8
  | .zzRdfix _ _ => 0x35#8
  | .fmtEnc _ _ => 0x40#8
  | .fmtBch _ => 0x41#8

/-- The format of an operation (R94). -/
def formatOf : Instr → Format
  | .sysNop | .sysReset | .rsGen | .rsClr | .rsEnc | .zzNext | .zzCount => .z0
  | .sysRdreg _ | .gfLog _ | .rsSetn _ | .rsPush _ | .rsRdgen _ | .rsRdrem _ | .rsRddat _ | .zzSetver _ | .zzStart _
  | .fmtBch _ => .b
  | .gfAdd _ _ | .gfMul _ _ | .gfPow _ _ | .zzFix _ _ | .zzRdfix _ _ | .fmtEnc _ _ => .ab
  | .gfExp _ | .rsRdbit _ => .w

/-- Bits 15:0 of an operation's word: its operands in the fields of its format, zero elsewhere (R91). -/
def operandBits : Instr → Half
  | .sysNop | .sysReset | .rsGen | .rsClr | .rsEnc | .zzNext | .zzCount => 0#16
  | .sysRdreg b | .gfLog b | .rsSetn b | .rsPush b | .rsRdgen b | .rsRdrem b | .rsRddat b | .zzSetver b | .zzStart b
  | .fmtBch b => 0#8 ++ b
  | .gfAdd a b | .gfMul a b | .gfPow a b | .zzFix a b | .zzRdfix a b | .fmtEnc a b => a ++ b
  | .gfExp w | .rsRdbit w => w

/-- The command word of an operation: OPC in bits 31:24, zeros in 23:16, the operands below (R90). -/
def encode (i : Instr) : Word := opcOf i ++ (0#8 ++ operandBits i)

/-- A row of the opcode table, its match and mask from the opcode and the format (R91, R94). -/
def tableRow (opc : Byte) (mnemonic : String) (f : Format) : Row :=
  { opc := opc, mnemonic := mnemonic, format := f, matchBits := opc.setWidth 32 <<< 24, mask := f.mask }

/-- The opcode map of R94 as a table of rows (R100). -/
def opcodeTable : List Row :=
  [tableRow 0x00#8 "SYS.NOP" .z0, tableRow 0x01#8 "SYS.RESET" .z0, tableRow 0x02#8 "SYS.RDREG" .b] ++
  [tableRow 0x10#8 "GF.ADD" .ab, tableRow 0x11#8 "GF.MUL" .ab, tableRow 0x12#8 "GF.EXP" .w, tableRow 0x13#8 "GF.LOG" .b,
   tableRow 0x14#8 "GF.POW" .ab] ++
  [tableRow 0x20#8 "RS.SETN" .b, tableRow 0x21#8 "RS.GEN" .z0, tableRow 0x22#8 "RS.CLR" .z0, tableRow 0x23#8 "RS.PUSH" .b,
   tableRow 0x24#8 "RS.ENC" .z0, tableRow 0x25#8 "RS.RDGEN" .b, tableRow 0x26#8 "RS.RDREM" .b, tableRow 0x27#8 "RS.RDDAT" .b,
   tableRow 0x28#8 "RS.RDBIT" .w] ++
  [tableRow 0x30#8 "ZZ.SETVER" .b, tableRow 0x31#8 "ZZ.FIX" .ab, tableRow 0x32#8 "ZZ.START" .b, tableRow 0x33#8 "ZZ.NEXT" .z0,
   tableRow 0x34#8 "ZZ.COUNT" .z0, tableRow 0x35#8 "ZZ.RDFIX" .ab] ++
  [tableRow 0x40#8 "FMT.ENC" .ab, tableRow 0x41#8 "FMT.BCH" .b]

/-- A word selects the row with `cmd and mask = match` (R91). -/
def Row.selects (r : Row) (cmd : Word) : Bool := cmd &&& r.mask == r.matchBits

/-- The operation of the table word `w` of `nbits` bits, bit 0 the least significant bit of the one 32-bit word of a
command; bits at and above `nbits` are zero, and no command is longer than 32 bits (R90, R97). -/
def decodeTableWord (nbits w : Nat) : Option Instr :=
  if nbits ≤ 32 then decode? (BitVec.ofNat 32 (w % 2 ^ nbits)) else none

/-- The commands a pseudo-instruction expands to, in order (R99). What it gives for one that `Pseudo.wf` refuses is the model's
(DESIGN CHOICE, safe, log entry 16). -/
def Pseudo.expand : Pseudo → List Instr
  | .rsLoad bs => .rsClr :: bs.map .rsPush
  | .rsBlock n => [.rsSetn n, .rsGen]
  | .zzFixrect r0 c0 r1 c1 =>
    (List.range (r1.toNat + 1 - r0.toNat)).flatMap fun i =>
      (List.range (c1.toNat + 1 - c0.toNat)).map fun j =>
        .zzFix (BitVec.ofNat 8 (r0.toNat + i)) (BitVec.ofNat 8 (c0.toNat + j))
  | .zzDrain m => List.replicate m .zzNext

end Sys2Proof
end

