-- ==== Sys2Proof/Config.lean ====
section
/-!
DEFINITION. The open parameters of an implementation (00_scope R8). They are plain data that a machine carries, so that a
theorem about every state holds for every implementation the spec allows, and a run uses the defaults.
The spec leaves no result undefined (00_scope R18: "no draw, no oracle"), so there is no free value here.
LAT(op) is not a field: no rule depends on it (70_reset_and_hazards R312; log entry 11).
-/

namespace Sys2Proof

/-- The parameters K_MAX, N_MAX and V_MAX (00_scope R8). -/
structure Config where
  /-- K_MAX: capacity of the data buffer DBUF, in codewords. -/
  kMax : Nat
  /-- N_MAX: largest number of error-correction codewords n. -/
  nMax : Nat
  /-- V_MAX: largest version the sequencer accepts. -/
  vMax : Nat
  deriving DecidableEq, Repr

/-- The constraints of 00_scope R8 on the parameters. -/
abbrev Config.Valid (c : Config) : Prop :=
  (1 ≤ c.kMax ∧ c.kMax ≤ 255) ∧ (1 ≤ c.nMax ∧ c.nMax ≤ 255) ∧ (1 ≤ c.vMax ∧ c.vMax ≤ 59)

/-- S_MAX, the largest side: 17 + 4*V_MAX (00_scope R8). -/
def Config.sMax (c : Config) : Nat := 17 + 4 * c.vMax

/-- The defaults "this spec uses in every example" (00_scope R8). -/
def Config.default : Config := { kMax := 255, nMax := 255, vMax := 40 }

end Sys2Proof
end

