-- ==== Sys2Proof/Machine/State.lean ====
section
/-!
DEFINITION. The state of QRECC as plain data (10_state R20), the error codes (60_exceptions R270), the response (10_state
R47), the reasons a step of the MODEL can stop, and the state after reset (10_state R50).
-/

namespace Sys2Proof.Machine

/-- The eight errors of 60_exceptions R270; their codes are in Machine/Ops.lean. -/
inductive ErrorCode where
  /-- E_ILLEGAL: the command word matches no row -/
  | illegal
  /-- E_RANGE: an operand or index is outside its legal range -/
  | range
  /-- E_LOG_ZERO: logarithm of the zero element -/
  | logZero
  /-- E_ECC_LEVEL: level selector outside {L, M, Q, H} -/
  | eccLevel
  /-- E_RS_FULL: data buffer full -/
  | rsFull
  /-- E_RS_STATE: a Reed-Solomon operation in a state that does not admit it -/
  | rsState
  /-- E_ZZ_STATE: a sequencer operation in a state that does not admit it -/
  | zzState
  /-- E_ZZ_OVERFLOW: the final bit string is longer than the sequence -/
  | zzOverflow
  deriving DecidableEq, Repr

/-- The traversal state ZST: "0 IDLE, 1 RUN, 2 DONE; 3 never occurs" (10_state R20). DESIGN CHOICE, safe (log entry 12):
three constructors, so that 3 cannot occur. -/
inductive Zst where
  | idle
  | run
  | done
  deriving DecidableEq, Repr

/-- The response to a command: "the pair (rsp_err, rsp_data)" (10_state R47). -/
structure Response where
  err : BitVec 4
  data : Word
  deriving DecidableEq, Repr

/-- One index space of cells of `w` bits (20_memory R60) as a list of (index, value) pairs; its canonical form is
`Memory.wf` of Machine/Ops.lean. `Memory 8` is a list of `Host.Cell`. -/
abbrev Memory (w : Nat) := List (Nat × BitVec w)

/-- The writable index spaces whose cells can hold no value (20_memory R60, 10_state R50). -/
inductive Space where
  | dbuf
  | gen
  | rem
  deriving DecidableEq, Repr

/-- The complete state of QRECC: the fields of 10_state R20 under their own names, and three fields of the model's own
(`cfg`, `moves`, `rsp`: DESIGN CHOICE, safe, log entries 1 and 2). -/
structure State where
  /-- The parameters of this implementation (00_scope R8); no step changes them. The model's own field. -/
  cfg : Config
  /-- What the host will do, oldest first (10_state R48); the step reads it. The model's own field. -/
  moves : List HostMove
  /-- The response the block presents and the host has not taken (10_state R46). The model's own field. -/
  rsp : Option Response
  /-- ERR: sticky error code, 0 = none -/
  err : BitVec 4
  /-- RES: value of the last value-returning operation -/
  res : Word
  /-- K: number of data codewords in DBUF -/
  k : Byte
  /-- DBUF: data codewords, cells 0..K-1 meaningful -/
  dbuf : Memory 8
  /-- N: number of ECC codewords n; 0 = not set -/
  n : Byte
  /-- GENV: GEN holds genpoly(N) -/
  genv : Bool
  /-- GEN: generator coefficients, cells 0..N meaningful when GENV = 1 -/
  gen : Memory 8
  /-- REMV: REM holds rsrem(DBUF[0..K-1], N) -/
  remv : Bool
  /-- REM: ECC codewords, cells 0..N-1 meaningful when REMV = 1 -/
  rem : Memory 8
  /-- VER: version; 0 = not set -/
  ver : BitVec 6
  /-- FIXED: 1 = cell is fixed; indexed by `planeIndex row col` of Machine/Operands.lean -/
  fixed : Memory 1
  /-- ZST: traversal state -/
  zst : Zst
  /-- ZMODE: false = positions only, true = place mode -/
  zmode : Bool
  /-- ZP: index of the column pair to probe next -/
  zp : Byte
  /-- ZT: step within the pair -/
  zt : Byte
  /-- ZH: false = right column of the pair next, true = left column next -/
  zh : Bool
  /-- ZIDX: number of positions emitted since ZZ.START -/
  zidx : BitVec 16
  deriving DecidableEq, Repr

/-- The reasons for which a step of the model stops. None is an error of the spec (those are `ErrorCode`, and taking one is
a next state), and none occurs in a state that meets the invariants of 10_state R24. -/
inductive Fault where
  /-- Raised by RS.ENC, RS.RDGEN, RS.RDREM, RS.RDDAT, RS.RDBIT and ZZ.NEXT in place mode when they read a cell that holds no
  value (10_state R50 "unspecified; unreadable"; 93_implementation_defined U5). Safe: the model stops where a block in
  such a state, which no run reaches, would read something unspecified. -/
  | unspecifiedCell (space : Space)
  /-- Raised by ZZ.NEXT when the cursor is neither at the end nor on a cell of the grid (42_zigzag R210 excludes it). Safe: the
  model stops where R205 has no cell to probe, and no run reaches such a state. -/
  | cursorOffGrid
  deriving DecidableEq, Repr

/-- The reasons for which the model gives no meaning. -/
inductive Refusal where
  /-- Raised by an arm of `exec` whose instruction has no meaning yet. Safe: the model stops. No arm raises it now. -/
  | notModelled (mnemonic : String)
  deriving DecidableEq, Repr

/-- The state right after reset (10_state R50), with the default parameters (00_scope R8). Cells of DBUF, GEN and REM hold no
value and cells of FIXED are 0: DESIGN CHOICE (log entries 3 and 4), R50 calls both unspecified and unreadable. The host has
issued nothing and no response is presented. -/
def State.reset : State where
  cfg := Config.default
  moves := []
  rsp := none
  err := 0#4
  res := 0#32
  k := 0#8
  dbuf := []
  n := 0#8
  genv := false
  gen := []
  remv := false
  rem := []
  ver := 0#6
  fixed := []
  zst := .idle
  zmode := false
  zp := 0#8
  zt := 0#8
  zh := false
  zidx := 0#16

end Sys2Proof.Machine
end

