-- ==== Sys2Proof/Machine/Ops.lean ====
section
/-!
DEFINITION. The named operations over the index spaces and over the state: reading and writing one cell (20_memory R69),
the bulk reads and writes, the two ways an operation ends normally (00_scope R13), RAISING AN ERROR as one shared operation
(60_exceptions R272) with the ignored command of the error state (R273) beside it, and the reset (70_reset_and_hazards R300)
that is the only return from it (R275).
-/

namespace Sys2Proof.Machine

/-! ## Cells -/

/-- What a cell of DBUF, GEN or REM that nothing has written holds: no value. DESIGN CHOICE, safe (log entry 3): 10_state R50
calls it unspecified and unreadable. -/
def unlistedByte : Option Byte := none

/-- What a cell of FIXED that is not listed holds: 0, writable. After ZZ.SETVER this is what 20_memory R64 says; before it,
where R50 says unspecified, DESIGN CHOICE, unsafe in form and unobservable (log entry 4). -/
def unlistedFixed : Option (BitVec 1) := some 0#1

/-- `SPACE[i]`: the value of the cell at index `a`, `unlisted` where the cell is not listed (00_scope R13 MemRead). -/
def Memory.read {w : Nat} (unlisted : Option (BitVec w)) : Memory w → Nat → Option (BitVec w)
  | [], _ => unlisted
  | (b, u) :: m, a => if a = b then some u else Memory.read unlisted m a

/-- `SPACE[i] <- v`: the cell at index `a` becomes `v`; the list stays in canonical form (00_scope R13 MemWrite). -/
def Memory.write {w : Nat} (unlisted : Option (BitVec w)) : Memory w → Nat → BitVec w → Memory w
  | [], a, v => if unlisted = some v then [] else [(a, v)]
  | (b, u) :: m, a, v =>
    if a < b then (if unlisted = some v then (b, u) :: m else (a, v) :: (b, u) :: m)
    else if a = b then (if unlisted = some v then m else (a, v) :: m)
    else (b, u) :: Memory.write unlisted m a v

/-- The canonical form: indices strictly rising, no entry equal to what an unlisted cell holds. -/
def Memory.wf {w : Nat} (unlisted : Option (BitVec w)) : Memory w → Bool
  | [] => true
  | (a, v) :: m => decide (unlisted ≠ some v) && m.all (fun c => decide (a < c.1)) && Memory.wf unlisted m

/-- `SPACE[a..a+count-1]`, or none if one of the cells holds no value. -/
def readCells (m : Memory 8) (a : Nat) : Nat → Option (List Byte)
  | 0 => some []
  | count + 1 =>
    match Memory.read unlistedByte m a, readCells m (a + 1) count with
    | some v, some vs => some (v :: vs)
    | _, _ => none

/-- `SPACE[a+i] <- vs[i]` for each i, in order. -/
def writeCells (m : Memory 8) (a : Nat) : List Byte → Memory 8
  | [] => m
  | v :: vs => writeCells (Memory.write unlistedByte m a v) (a + 1) vs

/-! ## How an operation ends -/

/-- The codes of 60_exceptions R270. -/
def ErrorCode.code : ErrorCode → BitVec 4
  | .illegal => 1#4
  | .range => 2#4
  | .logZero => 3#4
  | .eccLevel => 4#4
  | .rsFull => 5#4
  | .rsState => 6#4
  | .zzState => 7#4
  | .zzOverflow => 8#4

/-- `respond(v)`: RES <- v, response (0, v) (00_scope R13, 10_state R38). -/
def respondState (v : Word) (s : State) : State := { s with res := v, rsp := some { err := 0#4, data := v } }

/-- `respond()`: RES unchanged, response (0, 0) (00_scope R13). -/
def ackState (s : State) : State := { s with rsp := some { err := 0#4, data := 0#32 } }

/-- `raise E_X`: ERR <- the code, response (code, 0), nothing else changes (60_exceptions R272). -/
def raiseState (e : ErrorCode) (s : State) : State :=
  { s with err := e.code, rsp := some { err := e.code, data := 0#32 } }

/-- A command ignored in the error state: "the state does not change at all" and "the response is (ERR, 0)" (R273). -/
def ignoredState (s : State) : State := { s with rsp := some { err := s.err, data := 0#32 } }

/-- Every field of 10_state R20 at its reset value of R50 (70_reset_and_hazards R300); the parameters and what the host will do
next are not the block's to reset. No response is presented: one not yet taken is discarded (R300). -/
def resetState (s : State) : State := { State.reset with cfg := s.cfg, moves := s.moves }

/-- Ends an operation with `respond(v)`. -/
def respond (v : Word) (s : State) : Host.Outcome State Fault Refusal := .next (respondState v s)

/-- Ends an operation with `respond()`. -/
def ack (s : State) : Host.Outcome State Fault Refusal := .next (ackState s)

/-- TAKING AN ERROR, the one shared operation: ends an operation with `raise E_X` (60_exceptions R272). -/
def raise (e : ErrorCode) (s : State) : Host.Outcome State Fault Refusal := .next (raiseState e s)

/-- Ends a command with `respond(v)` where `v` was read from a cell; a cell that holds no value stops the model. -/
def respondCell (space : Space) (v : Option Byte) (s : State) : Host.Outcome State Fault Refusal :=
  match v with
  | some b => respond (b.setWidth 32) s
  | none => .fault (.unspecifiedCell space)

/-! ## The ports the host sees (10_state R46) -/

/-- rsp_valid: the block presents a response (R46). -/
def rspValid (s : State) : Bool := s.rsp.isSome

/-- err: "level signal, 1 iff ERR ≠ 0" (R46). -/
def errPin (s : State) : Bool := s.err != 0#4

end Sys2Proof.Machine
end

