-- ==== Sys2Proof/Machine/Bch.lean ====
section
/-!
DEFINITION. The format word as pure functions (43_format_bch R230 to R236): the level selectors and codes, the payload, the
BCH remainder and the masked 15-bit word.
-/

namespace Sys2Proof.Machine

/-- The level a selector value names: 0, 1, 2, 3 = L, M, Q, H; "4..255 name no level" (R231). -/
def levelOf (a : Nat) : Option Level :=
  match a with
  | 0 => some .L
  | 1 => some .M
  | 2 => some .Q
  | 3 => some .H
  | _ => none

/-- The document's 2-bit code of a level: L=01, M=00, Q=11, H=10 (R231). -/
def levelCode : Level → Nat
  | .L => 0b01
  | .M => 0b00
  | .Q => 0b11
  | .H => 0b10

/-- `payload = (code << 3) or maskid` (R230), for a mask identifier 0..7 (R232); above 7, DESIGN CHOICE, safe (log entry 16). -/
def payload (l : Level) (maskId : Nat) : Nat := (levelCode l <<< 3) ||| maskId

/-- `bitlen(v)`: "0 for v = 0, otherwise 1 + floor(log2 v)" (00_scope R10). -/
def bitlen (v : Nat) : Nat := if v = 0 then 0 else 1 + Nat.log2 v

/-- G15 = 0b10100110111 = 0x537 (R233). -/
def g15 : Nat := 0x537

/-- The loop of R233: while bitlen(r) > 10, XOR G15 with its top bit on the top bit of r. Each round lowers bitlen(r), so `fuel`
= bitlen(r) rounds are enough (R234). -/
def bchLoop : Nat → Nat → Nat
  | 0, r => r
  | fuel + 1, r => if bitlen r > 10 then bchLoop fuel (r ^^^ (g15 <<< (bitlen r - 11))) else r

/-- `bchrem(p)` for p in 0..31 (R233); above 31 the value is the model's (DESIGN CHOICE, safe, log entry 16). -/
def bchrem (p : Nat) : Nat := bchLoop (bitlen (p <<< 10)) (p <<< 10)

/-- `fmtword(p) = ((p << 10) or bchrem(p)) xor 0x5412` (R235); above 31 as `bchrem` (log entry 16). -/
def fmtword (p : Nat) : Nat := ((p <<< 10) ||| bchrem p) ^^^ 0x5412

end Sys2Proof.Machine
end

