-- ==== Sys2Proof/Machine/FmtFamily.lean ====
section
/-!
DEFINITION. The meanings of the format-information operations FMT.ENC and FMT.BCH (43_format_bch R240, R241).
-/

namespace Sys2Proof.Machine

/-- FMT.ENC a, b (R240): E_ECC_LEVEL on the level before E_RANGE on the mask, then `respond(fmtword(p))`. -/
def execFmtEnc (a b : Byte) (s : State) : Host.Outcome State Fault Refusal :=
  match levelOf a.toNat with
  | none => raise .eccLevel s
  | some l => if b.toNat > 7 then raise .range s else respond (BitVec.ofNat 32 (fmtword (payload l b.toNat))) s

/-- FMT.BCH b (R241): `if b > 31: raise E_RANGE`, `respond(bchrem(b))`. -/
def execFmtBch (b : Byte) (s : State) : Host.Outcome State Fault Refusal :=
  if b.toNat > 31 then raise .range s else respond (BitVec.ofNat 32 (bchrem b.toNat)) s

end Sys2Proof.Machine
end

