-- ==== Sys2Proof/Machine/Gf256.lean ====
section
/-!
DEFINITION. The field GF(2^8) as pure functions (40_gf256 R120 to R133): the exponent and log tables, addition,
multiplication and power.
-/

namespace Sys2Proof.Machine

/-- One step of the recurrence of R121: shift left to 9 bits, and when "the 9th bit" (bit 8) is set, XOR 0x11D. -/
def double (x : Byte) : Byte :=
  let t : BitVec 9 := x.setWidth 9 <<< 1
  (if t.getLsbD 8 then t ^^^ 0x11D#9 else t).setWidth 8

/-- The recurrence of R121 run `i` times from "starting element 1". -/
def expIter : Nat → Byte
  | 0 => 1#8
  | i + 1 => double (expIter i)

/-- `gfexp(i) = EXP[i]`: "for every i in 0..511, EXP[i] = EXP[i mod 255]" (R122), and EXP[0..254] is the recurrence (R121).
Above 511, where EXP has no entry (93_implementation_defined U11), the value goes on with period 255: DESIGN CHOICE, safe (log entry
16); no operation reaches such an index. -/
def gfexp (i : Nat) : Byte := expIter (i % 255)

/-- Searches `x = EXP[i], EXP[i+1], ...` for `v`, `count` entries. -/
def logFrom (v : Byte) : Nat → Nat → Byte → Option Nat
  | 0, _, _ => none
  | count + 1, i, x => if x = v then some i else logFrom v count (i + 1) (double x)

/-- `gflog(v) = LOG[v]`: the i in 0..254 with EXP[i] = v (R124, R125); `none` for 0, "LOG[0] has no value" (R126). -/
def gflog (v : Byte) : Option Nat := logFrom v 255 0 1#8

/-- `gfadd(a, b) = a xor b`; subtraction is the same function (R131). -/
def gfadd (a b : Byte) : Byte := a ^^^ b

/-- `gfmul(a, b)` (R128): `EXP[(LOG[a] + LOG[b]) mod 255]` where both logs exist, 0 where an operand is 0 and has none. -/
def gfmul (a b : Byte) : Byte :=
  match gflog a, gflog b with
  | some i, some j => gfexp ((i + j) % 255)
  | _, _ => 0#8

/-- `gfpow(a, k)` (R132): 1 for k = 0, `EXP[(LOG[a] * k) mod 255]` where the log exists, 0 where a is 0. -/
def gfpow (a : Byte) (k : Nat) : Byte :=
  if k = 0 then 1#8
  else match gflog a with
    | some i => gfexp ((i * k) % 255)
    | none => 0#8

end Sys2Proof.Machine
end

