-- ==== Sys2Proof/Machine/GfFamily.lean ====
section
/-!
DEFINITION. The meanings of the field operations GF.ADD, GF.MUL, GF.EXP, GF.LOG, GF.POW (40_gf256 R135 to R139).
-/

namespace Sys2Proof.Machine

/-- GF.ADD a, b (R135): `respond(a xor b)`. -/
def execGfAdd (a b : Byte) (s : State) : Host.Outcome State Fault Refusal := respond ((gfadd a b).setWidth 32) s

/-- GF.MUL a, b (R136): `respond(gfmul(a, b))`. -/
def execGfMul (a b : Byte) (s : State) : Host.Outcome State Fault Refusal := respond ((gfmul a b).setWidth 32) s

/-- GF.EXP w (R137): `if w > 511: raise E_RANGE`, `respond(EXP[w])`. -/
def execGfExp (w : Half) (s : State) : Host.Outcome State Fault Refusal :=
  if w.toNat > 511 then raise .range s else respond ((gfexp w.toNat).setWidth 32) s

/-- GF.LOG b (R138): `if b = 0: raise E_LOG_ZERO`, `respond(LOG[b])`; LOG has no value exactly for b = 0 (R126). -/
def execGfLog (b : Byte) (s : State) : Host.Outcome State Fault Refusal :=
  match gflog b with
  | some i => respond (BitVec.ofNat 32 i) s
  | none => raise .logZero s

/-- GF.POW a, b (R139): `respond(gfpow(a, b))`, b an unsigned integer. -/
def execGfPow (a b : Byte) (s : State) : Host.Outcome State Fault Refusal := respond ((gfpow a b.toNat).setWidth 32) s

end Sys2Proof.Machine
end

