-- ==== Sys2Proof/Machine/Operands.lean ====
section
/-!
DEFINITION. What an operand or an index names: the side SIZE derived from VER (10_state R35), a cell of the plane FIXED
(20_memory R64), a codeword and a bit of the final codeword string (20_memory R65, R66).
An operand itself is the unsigned integer of its field (30_encoding R92), `BitVec.toNat` of it.
-/

namespace Sys2Proof.Machine

/-- `size(0) = 0`; for VER ≥ 1, `size(VER) = 21 + 4*(VER-1)` (10_state R35). -/
def size (ver : Nat) : Nat := if ver = 0 then 0 else 21 + 4 * (ver - 1)

/-- SIZE of a state, derived from VER (10_state R20 "SIZE is not a field"). -/
def sideOf (s : State) : Nat := size s.ver.toNat

/-- The index of the cell (row, col) in the list that holds FIXED: rows and columns have 8 bits (00_scope R9), so the pair is
numbered 256*row + col. DESIGN CHOICE, safe (log entry 13): a numbering of pairs, no address of the spec. -/
def planeIndex (r c : Nat) : Nat := 256 * r + c

/-- FIXED[r][c] = 1 (20_memory R64), for r, c < SIZE; for a cell outside, which R64 calls never read, the answer is the list's
(DESIGN CHOICE, safe, log entry 17). -/
def isFixed (s : State) (r c : Nat) : Bool := Memory.read unlistedFixed s.fixed (planeIndex r c) == some 1#1

/-- FIXED[r][c] <- 1 (42_zigzag R203). -/
def fixCell (m : Memory 1) (r c : Nat) : Memory 1 := Memory.write unlistedFixed m (planeIndex r c) 1#1

/-- FIXED[r][c] <- 0 for all r, c < side; the other cells keep what they hold (42_zigzag R202). -/
def clearPlane (m : Memory 1) (side : Nat) : Memory 1 :=
  m.filter fun e => !(decide (e.1 / 256 < side) && decide (e.1 % 256 < side))

/-- `fcw(j)`: codeword j of the final codeword string DBUF[0..K-1] ++ REM[0..N-1] (20_memory R65); none where the cell holds
no value. R65 defines it with REMV = 1 and for j < K+N only: elsewhere it is the cell as it stands, an old one too (DESIGN CHOICE,
safe, log entry 17). -/
def fcw (s : State) (j : Nat) : Option Byte :=
  if j < s.k.toNat then Memory.read unlistedByte s.dbuf j else Memory.read unlistedByte s.rem (j - s.k.toNat)

/-- The space `fcw` reads codeword j from. -/
def fcwSpace (s : State) (j : Nat) : Space := if j < s.k.toNat then .dbuf else .rem

/-- `fbit(i) = fcw(i div 8)[7 - (i mod 8)]` (20_memory R66), defined for i < 8*(K+N) with REMV = 1; elsewhere as `fcw` (DESIGN CHOICE,
safe, log entry 17). -/
def fbit (s : State) (i : Nat) : Option Bool := (fcw s (i / 8)).map fun b => b.getLsbD (7 - i % 8)

/-- The length L = 8*(K+N) of the final bit string (20_memory R66). -/
def bitLength (s : State) : Nat := 8 * (s.k.toNat + s.n.toNat)

end Sys2Proof.Machine
end

