-- ==== Sys2Proof/Machine/Flags.lean ====
section
/-!
DEFINITION. The flags (10_state R23): what clears GENV, REMV and ZST, and the registers SYS.RDREG reads, STATUS among them,
packed as their rules say (10_state R25 to R39).
-/

namespace Sys2Proof.Machine

/-! ## Clearing flags -/

/-- `if ZMODE = 1: ZST <- IDLE`: abort a place-mode traversal (42_zigzag R216). -/
def abortPlace (s : State) : State := if s.zmode then { s with zst := .idle } else s

/-- REMV <- 0 and the abort that goes with it, shared by RS.SETN, RS.CLR and RS.PUSH (10_state R23, 42_zigzag R216). -/
def dropRemainder (s : State) : State := abortPlace { s with remv := false }

/-- The cursor, ZIDX and ZST as ZZ.START and ZZ.SETVER leave them but for ZST: (0, 0, 0) and 0 (42_zigzag R202, R204). -/
def rewind (s : State) : State := { s with zp := 0#8, zt := 0#8, zh := false, zidx := 0#16 }

/-! ## The registers -/

/-- The two bits of ZST in STATUS: 0 IDLE, 1 RUN, 2 DONE (10_state R31). -/
def Zst.bits : Zst → BitVec 2
  | .idle => 0#2
  | .run => 1#2
  | .done => 2#2

/-- ID, register 0 (10_state R30). -/
def idWord : Word := 0x51520001#32

/-- VSET, "1 iff VER ≠ 0 (derived, not stored)" (10_state R31). -/
def vset (s : State) : Bool := s.ver != 0#6

/-- STATUS, register 1 (10_state R31): VSET, ZMODE, ZST, REMV, GENV, ERR in bits 9, 8, 7:6, 5, 4, 3:0. -/
def statusWord (s : State) : Word :=
  0#22 ++ (BitVec.ofBool (vset s) ++ (BitVec.ofBool s.zmode ++ (s.zst.bits ++ (BitVec.ofBool s.remv ++
    (BitVec.ofBool s.genv ++ s.err)))))

/-- ZCUR, register 7 (10_state R37): bits 23:16 = ZP, bits 15:8 = ZT, bit 0 = ZH. -/
def zcurWord (s : State) : Word := 0#8 ++ (s.zp ++ (s.zt ++ (0#7 ++ BitVec.ofBool s.zh)))

/-- CAP, register 9 (10_state R39): bits 23:16 = V_MAX, bits 15:8 = N_MAX, bits 7:0 = K_MAX. -/
def capWord (c : Config) : Word :=
  0#8 ++ (BitVec.ofNat 8 c.vMax ++ (BitVec.ofNat 8 c.nMax ++ BitVec.ofNat 8 c.kMax))

/-- `REGS[b]` zero-extended to 32 bits; registers 10 to 255 do not exist (10_state R25, 44_system R252). -/
def regs (s : State) (b : Byte) : Option Word :=
  match b.toNat with
  | 0 => some idWord
  | 1 => some (statusWord s)
  | 2 => some (s.k.setWidth 32)
  | 3 => some (s.n.setWidth 32)
  | 4 => some (s.ver.setWidth 32)
  | 5 => some (BitVec.ofNat 32 (sideOf s))
  | 6 => some (s.zidx.setWidth 32)
  | 7 => some (zcurWord s)
  | 8 => some s.res
  | 9 => some (capWord s.cfg)
  | _ => none

end Sys2Proof.Machine
end

