-- ==== Sys2Proof/Machine/Poly.lean ====
section
/-!
DEFINITION. Polynomials over GF(2^8) as lists of coefficients, highest degree first (00_scope R14): product, generator
polynomial, remainder and value at a point (41_reed_solomon R150 to R154).
-/

namespace Sys2Proof.Machine

/-- The XOR of a list of field elements, 0 for the empty list. -/
def xorAll (xs : List Byte) : Byte := xs.foldr (fun x acc => x ^^^ acc) 0#8

/-- Coefficient m of a product: the XOR over all (i, j) with i + j = m of `gfmul(p[i], q[j])` (R150), the pairs listed by j. -/
def mulCoeff (p q : List Byte) (m : Nat) : Byte :=
  xorAll ((List.range q.length).map fun j =>
    if j ≤ m then
      match p[m - j]?, q[j]? with
      | some x, some y => gfmul x y
      | _, _ => 0#8
    else 0#8)

/-- `polymul(p, q)`, of length lp + lq - 1 (R150), of non-empty lists; what it gives for an empty one is the model's
(DESIGN CHOICE, safe, log entry 16). -/
def polymul (p q : List Byte) : List Byte := (List.range (p.length + q.length - 1)).map (mulCoeff p q)

/-- `genpoly(0) = [1]`, `genpoly(i+1) = polymul(genpoly(i), [1, EXP[i]])` (R151). Above n = 512 it reads `gfexp` above
511: DESIGN CHOICE, safe (log entry 16); the block has n ≤ 255. -/
def genpoly : Nat → List Byte
  | 0 => [1#8]
  | i + 1 => polymul (genpoly i) [1#8, gfexp i]

/-- `m[j] xor d[j]` for the entries `d` has, the others of `m` as they are. -/
def xorInto : List Byte → List Byte → List Byte
  | m, [] => m
  | [], _ => []
  | x :: m, y :: d => (x ^^^ y) :: xorInto m d

/-- One round of the reference procedure of R153: with c the leading entry, XOR `gfmul(g[j], c)` into the n entries after it and
go on with those. -/
def divStep (g m : List Byte) : List Byte :=
  match m with
  | [] => []
  | c :: rest => xorInto rest (g.tail.map fun gj => gfmul gj c)

/-- `k` rounds of the reference procedure (R153 "for i in 0..k-1"). -/
def divSteps (g : List Byte) : Nat → List Byte → List Byte
  | 0, m => m
  | k + 1, m => divSteps g k (divStep g m)

/-- The remainder of `data ++ [0]*n` by the synthetic division of R153, with the divisor g of length n+1 and g[0] = 1; for
other lists g, DESIGN CHOICE, safe (log entry 16). -/
def rsremBy (g data : List Byte) (n : Nat) : List Byte :=
  divSteps g data.length (data ++ List.replicate n 0#8)

/-- `rsrem(data, n)` (R153): the division by genpoly(n). -/
def rsrem (data : List Byte) (n : Nat) : List Byte := rsremBy (genpoly n) data n

/-- The value of a polynomial at x: "y = 0; for each coefficient: y = gfmul(y, x) xor coefficient" (R154 item 2). -/
def polyEval (p : List Byte) (x : Byte) : Byte := p.foldl (fun y c => gfmul y x ^^^ c) 0#8

end Sys2Proof.Machine
end

