-- ==== Sys2Proof/Machine/RsFamily.lean ====
section
/-!
DEFINITION. The meanings of the Reed-Solomon operations RS.SETN, RS.GEN, RS.CLR, RS.PUSH, RS.ENC, RS.RDGEN, RS.RDREM,
RS.RDDAT, RS.RDBIT (41_reed_solomon R155 to R163), the checks in the order their pseudocode writes them (60_exceptions R276).
-/

namespace Sys2Proof.Machine

/-- RS.SETN b (R155). -/
def execRsSetn (b : Byte) (s : State) : Host.Outcome State Fault Refusal :=
  if b = 0#8 ∨ b.toNat > s.cfg.nMax then raise .range s
  else ack (dropRemainder { s with n := b, genv := false })

/-- RS.GEN (R156): GEN[0..N] becomes genpoly(N). -/
def execRsGen (s : State) : Host.Outcome State Fault Refusal :=
  if s.n = 0#8 then raise .rsState s
  else ack { s with gen := writeCells s.gen 0 (genpoly s.n.toNat), genv := true }

/-- RS.CLR (R157). -/
def execRsClr (s : State) : Host.Outcome State Fault Refusal := ack (dropRemainder { s with k := 0#8 })

/-- RS.PUSH b (R158). -/
def execRsPush (b : Byte) (s : State) : Host.Outcome State Fault Refusal :=
  if s.k.toNat = s.cfg.kMax then raise .rsFull s
  else ack (dropRemainder { s with dbuf := Memory.write unlistedByte s.dbuf s.k.toNat b, k := s.k + 1#8 })

/-- RS.ENC (R159): REM[0..N-1] becomes the remainder of DBUF[0..K-1] by the generator in GEN[0..N], "which is genpoly(N) by rule
R24 item 2"; 20_memory R69 says the operation reads GEN[0..N] (DEDUCED, safe, log entry 8). -/
def execRsEnc (s : State) : Host.Outcome State Fault Refusal :=
  if s.genv = false then raise .rsState s
  else if s.k = 0#8 then raise .rsState s
  else match readCells s.dbuf 0 s.k.toNat, readCells s.gen 0 (s.n.toNat + 1) with
    | some data, some g =>
      ack { s with rem := writeCells s.rem 0 (rsremBy g data s.n.toNat), remv := true }
    | none, _ => .fault (.unspecifiedCell .dbuf)
    | some _, none => .fault (.unspecifiedCell .gen)

/-- RS.RDGEN b (R160). -/
def execRsRdgen (b : Byte) (s : State) : Host.Outcome State Fault Refusal :=
  if s.genv = false then raise .rsState s
  else if b.toNat > s.n.toNat then raise .range s
  else respondCell .gen (Memory.read unlistedByte s.gen b.toNat) s

/-- RS.RDREM b (R161). -/
def execRsRdrem (b : Byte) (s : State) : Host.Outcome State Fault Refusal :=
  if s.remv = false then raise .rsState s
  else if b.toNat ≥ s.n.toNat then raise .range s
  else respondCell .rem (Memory.read unlistedByte s.rem b.toNat) s

/-- RS.RDDAT b (R162). -/
def execRsRddat (b : Byte) (s : State) : Host.Outcome State Fault Refusal :=
  if b.toNat ≥ s.k.toNat then raise .range s
  else respondCell .dbuf (Memory.read unlistedByte s.dbuf b.toNat) s

/-- RS.RDBIT w (R163): `respond(fbit(w))`. -/
def execRsRdbit (w : Half) (s : State) : Host.Outcome State Fault Refusal :=
  if s.remv = false then raise .rsState s
  else if w.toNat ≥ bitLength s then raise .range s
  else match fbit s w.toNat with
    | some v => respond ((BitVec.ofBool v).setWidth 32) s
    | none => .fault (.unspecifiedCell (fcwSpace s (w.toNat / 8)))

end Sys2Proof.Machine
end

