-- ==== Sys2Proof/Machine/SysFamily.lean ====
section
/-!
DEFINITION. The meanings of the system operations SYS.NOP, SYS.RESET, SYS.RDREG (44_system R250 to R252).
-/

namespace Sys2Proof.Machine

/-- SYS.NOP (R250): `respond()`. -/
def execSysNop (s : State) : Host.Outcome State Fault Refusal := ack s

/-- SYS.RESET (R251): every field at its reset value, response (0, 0). -/
def execSysReset (s : State) : Host.Outcome State Fault Refusal := ack (resetState s)

/-- SYS.RDREG b (R252): `if b > 9: raise E_RANGE`, `respond(REGS[b])`. -/
def execSysRdreg (b : Byte) (s : State) : Host.Outcome State Fault Refusal :=
  match regs s b with
  | some v => respond v s
  | none => raise .range s

end Sys2Proof.Machine
end

