-- ==== Sys2Proof/Machine/Traverse.lean ====
section
/-!
DEFINITION. The traversal of the symbol (42_zigzag R190 to R197, R210 to R212): the column pairs, the order of the probes,
the sequence and its count as pure functions of the side and the fixed cells, and the cursor with its advance and its scan.
The rules define them for every odd side from 21 up (R190, 93_implementation_defined U9), pairs j < NP and steps t < S. For other
arguments `pairCount`, `rightCol`, `rowAt`, `cellAt`, `probes`, `zzseq`, `zzcount` and what is built on them give what their text
computes over natural numbers, a difference below 0 being 0: DESIGN CHOICE, safe (log entry 17).
-/

namespace Sys2Proof.Machine

/-- NP = (SIZE-1)/2, the number of column pairs (R191, R210); rounded down for an even side (DESIGN CHOICE, safe, log entry 17). -/
def pairCount (side : Nat) : Nat := (side - 1) / 2

/-- `right(S, j)`: the right column of pair j < NP (R191); for other j and sides, DESIGN CHOICE, safe (log entry 17). -/
def rightCol (side j : Nat) : Nat := if side - 1 - 2 * j ≥ 8 then side - 1 - 2 * j else side - 2 - 2 * j

/-- `rowat(S, j, t)`: the row at step t of pair j, upward for even j, downward for odd j (R192); for t ≥ S,
DESIGN CHOICE, safe (log entry 17). -/
def rowAt (side j t : Nat) : Nat := if j % 2 = 0 then side - 1 - t else t

/-- A probe (j, t, h) of R193, and the cursor (ZP, ZT, ZH) that names the next one (R210); `left` is h = 1. -/
structure Cursor where
  pair : Nat
  step : Nat
  left : Bool
  deriving DecidableEq, Repr

/-- `cell(S, j, t, h) = ( rowat(S, j, t), right(S, j) - h )` (R193), the cell under a cursor on the grid (R211); for other
cursors, DESIGN CHOICE, safe (log entry 17). -/
def cellAt (side : Nat) (c : Cursor) : Nat × Nat :=
  (rowAt side c.pair c.step, rightCol side c.pair - (if c.left then 1 else 0))

/-- All probes of a traversal in order, "j in 0..NP-1, t in 0..S-1, h in 0..1" (R193). -/
def probes (side : Nat) : List Cursor :=
  (List.range (pairCount side)).flatMap fun j =>
    (List.range side).flatMap fun t => [Cursor.mk j t false, Cursor.mk j t true]

/-- `zzseq(S, F)` (R194): the probed cells that are writable, in probe order; for a side that is even or below 21, DESIGN CHOICE,
safe (log entry 17). -/
def zzseq (side : Nat) (fixed : Nat → Nat → Bool) : List (Nat × Nat) :=
  ((probes side).map (cellAt side)).filter fun p => !fixed p.1 p.2

/-- `zzcount(S, F)` (R196): the number of cells (r, c) with r, c < S, c ≠ 6 and F[r][c] = 0. -/
def zzcount (side : Nat) (fixed : Nat → Nat → Bool) : Nat :=
  ((List.range side).map fun r => (List.range side).countP fun c => c != 6 && !fixed r c).sum

/-- Probe order: (j, t, h) lexicographic (R193). -/
def Cursor.before (p c : Cursor) : Bool :=
  decide (p.pair < c.pair) ||
    (p.pair == c.pair && (decide (p.step < c.step) || (p.step == c.step && (!p.left && c.left))))

/-- "the number of writable cells among the probes that come before the cursor in traversal order" (10_state R24 item 6). -/
def writableBefore (side : Nat) (fixed : Nat → Nat → Bool) (c : Cursor) : Nat :=
  (probes side).countP fun p => p.before c && !fixed (cellAt side p).1 (cellAt side p).2

/-- Advancing the cursor by one probe (R212), from a cursor on the grid; for other cursors, DESIGN CHOICE, safe (log entry 17). -/
def Cursor.advance (side : Nat) (c : Cursor) : Cursor :=
  if c.left then
    if c.step = side - 1 then { pair := c.pair + 1, step := 0, left := false }
    else { c with step := c.step + 1, left := false }
  else { c with left := true }

/-- What scanning from the cursor comes to: a writable cell and the cursor after it, the end, or a cursor off the grid. -/
inductive Scan where
  | found (cell : Nat × Nat) (after : Cursor)
  | atEnd (after : Cursor)
  | offGrid
  deriving DecidableEq, Repr

/-- The loop of R205: at the end stop, else probe the cell under the cursor, advance, and stop if the cell was writable.
`fuel` bounds the probes; a cursor on the grid reaches the end within SIZE*(SIZE-1) of them (R215), and a cursor that R210
excludes gives `offGrid` (DESIGN CHOICE, safe, log entry 9). -/
def scan (side : Nat) (fixed : Nat → Nat → Bool) : Nat → Cursor → Scan
  | 0, _ => .offGrid
  | fuel + 1, c =>
    if c.pair = pairCount side then .atEnd c
    else if c.pair < pairCount side ∧ c.step < side then
      if fixed (cellAt side c).1 (cellAt side c).2 then scan side fixed fuel (c.advance side)
      else .found (cellAt side c) (c.advance side)
    else .offGrid

/-- The probes of a whole traversal and one more step to see the end: enough fuel for `scan` (R193, R215). -/
def scanFuel (side : Nat) : Nat := side * (side - 1) + 1

/-- The cursor of a state (R210). -/
def cursorOf (s : State) : Cursor := { pair := s.zp.toNat, step := s.zt.toNat, left := s.zh }

/-- The registers ZP, ZT, ZH set to a cursor (R212). A number too large for its register, which no reachable state has, is cut
(DEDUCED, safe, log entry 14). -/
def setCursor (c : Cursor) (s : State) : State :=
  { s with zp := BitVec.ofNat 8 c.pair, zt := BitVec.ofNat 8 c.step, zh := c.left }

/-- zzcount of a state: of its SIZE and its FIXED (R204, R208). -/
def countOf (s : State) : Nat := zzcount (sideOf s) (isFixed s)

end Sys2Proof.Machine
end

