-- ==== Sys2Proof/Machine/ZzFamily.lean ====
section
/-!
DEFINITION. The meanings of the sequencer operations ZZ.SETVER, ZZ.FIX, ZZ.START, ZZ.NEXT, ZZ.COUNT, ZZ.RDFIX (42_zigzag R202
to R208, R214), the checks in the order their pseudocode writes them (60_exceptions R276).
-/

namespace Sys2Proof.Machine

/-- ZZ.SETVER b (R202): the version, the plane cleared, the traversal gone; answers SIZE. -/
def execZzSetver (b : Byte) (s : State) : Host.Outcome State Fault Refusal :=
  if b = 0#8 ∨ b.toNat > s.cfg.vMax then raise .range s
  else respond (BitVec.ofNat 32 (size b.toNat))
    (rewind { s with ver := b.setWidth 6, fixed := clearPlane s.fixed (size b.toNat), zst := .idle, zmode := false })

/-- ZZ.FIX a, b (R203): FIXED[a][b] <- 1, and the traversal is aborted (R216). -/
def execZzFix (a b : Byte) (s : State) : Host.Outcome State Fault Refusal :=
  if s.ver = 0#6 then raise .zzState s
  else if a.toNat ≥ sideOf s ∨ b.toNat ≥ sideOf s then raise .range s
  else ack { s with fixed := fixCell s.fixed a.toNat b.toNat, zst := .idle }

/-- ZZ.START b (R204): the cursor at the first probe, ZST = RUN; answers zzcount. -/
def execZzStart (b : Byte) (s : State) : Host.Outcome State Fault Refusal :=
  if b.toNat > 1 then raise .range s
  else if s.ver = 0#6 then raise .zzState s
  else if b = 1#8 ∧ s.remv = false then raise .zzState s
  else if b = 1#8 ∧ bitLength s > countOf s then raise .zzOverflow s
  else respond (BitVec.ofNat 32 (countOf s)) (rewind { s with zmode := b == 1#8, zst := .run })

/-- The result word of ZZ.NEXT for an emitted position: v in bit 16, row in 15:8, col in 7:0 (R206). -/
def positionWord (v : Bool) (r c : Nat) : Word :=
  0#15 ++ (BitVec.ofBool v ++ (BitVec.ofNat 8 r ++ BitVec.ofNat 8 c))

/-- The result word of ZZ.NEXT when the sequence is exhausted: done in bit 17, "all other fields are 0" (R206). -/
def doneWord : Word := 0x00020000#32

/-- The module value of position ZIDX: `fbit(ZIDX)` in place mode below the bit length, else 0 (R198, R205, R207); none where
the codeword's cell holds no value. A place-mode traversal has REMV = 1 (10_state R24 item 5); in a state without, `fbit` is the
model's (log entry 17). -/
def placeValue (s : State) : Option Bool :=
  if s.zmode = true ∧ s.zidx.toNat < bitLength s then fbit s s.zidx.toNat else some false

/-- ZZ.NEXT (R205): IDLE raises, DONE answers done, RUN scans to the next writable cell or to the end. -/
def execZzNext (s : State) : Host.Outcome State Fault Refusal :=
  match s.zst with
  | .idle => raise .zzState s
  | .done => respond doneWord s
  | .run =>
    match scan (sideOf s) (isFixed s) (scanFuel (sideOf s)) (cursorOf s) with
    | .atEnd c => respond doneWord { setCursor c s with zst := .done }
    | .found p c =>
      match placeValue s with
      | some v => respond (positionWord v p.1 p.2) { setCursor c s with zidx := s.zidx + 1#16 }
      | none => .fault (.unspecifiedCell (fcwSpace s (s.zidx.toNat / 8)))
    | .offGrid => .fault .cursorOffGrid

/-- ZZ.COUNT (R208): answers zzcount. -/
def execZzCount (s : State) : Host.Outcome State Fault Refusal :=
  if s.ver = 0#6 then raise .zzState s else respond (BitVec.ofNat 32 (countOf s)) s

/-- ZZ.RDFIX a, b (R214): answers FIXED[a][b]. -/
def execZzRdfix (a b : Byte) (s : State) : Host.Outcome State Fault Refusal :=
  if s.ver = 0#6 then raise .zzState s
  else if a.toNat ≥ sideOf s ∨ b.toNat ≥ sideOf s then raise .range s
  else respond ((BitVec.ofBool (isFixed s a.toNat b.toNat)).setWidth 32) s

end Sys2Proof.Machine
end

