-- ==== Sys2Proof/Machine/Dispatch.lean ====
section
/-!
DEFINITION. exec: one arm per constructor of Instr, each one direct call of that instruction's meaning (44_system R255 "run
the operation rule of d with its operands"). It does not look at ERR: step does (DESIGN CHOICE, safe, log entry 10).
-/

namespace Sys2Proof.Machine

def exec (i : Instr) (s : State) : Host.Outcome State Fault Refusal :=
  match i with
  | .sysNop => Sys2Proof.Machine.execSysNop s
  | .sysReset => Sys2Proof.Machine.execSysReset s
  | .sysRdreg b => Sys2Proof.Machine.execSysRdreg b s
  | .gfAdd a b => Sys2Proof.Machine.execGfAdd a b s
  | .gfMul a b => Sys2Proof.Machine.execGfMul a b s
  | .gfExp w => Sys2Proof.Machine.execGfExp w s
  | .gfLog b => Sys2Proof.Machine.execGfLog b s
  | .gfPow a b => Sys2Proof.Machine.execGfPow a b s
  | .rsSetn b => Sys2Proof.Machine.execRsSetn b s
  | .rsGen => Sys2Proof.Machine.execRsGen s
  | .rsClr => Sys2Proof.Machine.execRsClr s
  | .rsPush b => Sys2Proof.Machine.execRsPush b s
  | .rsEnc => Sys2Proof.Machine.execRsEnc s
  | .rsRdgen b => Sys2Proof.Machine.execRsRdgen b s
  | .rsRdrem b => Sys2Proof.Machine.execRsRdrem b s
  | .rsRddat b => Sys2Proof.Machine.execRsRddat b s
  | .rsRdbit w => Sys2Proof.Machine.execRsRdbit w s
  | .zzSetver b => Sys2Proof.Machine.execZzSetver b s
  | .zzFix a b => Sys2Proof.Machine.execZzFix a b s
  | .zzStart b => Sys2Proof.Machine.execZzStart b s
  | .zzNext => Sys2Proof.Machine.execZzNext s
  | .zzCount => Sys2Proof.Machine.execZzCount s
  | .zzRdfix a b => Sys2Proof.Machine.execZzRdfix a b s
  | .fmtEnc a b => Sys2Proof.Machine.execFmtEnc a b s
  | .fmtBch b => Sys2Proof.Machine.execFmtBch b s

end Sys2Proof.Machine
end

