-- ==== Sys2Proof/Machine/Transaction.lean ====
section
/-!
DEFINITION. One command through the block (44_system R255), and one move of the host (10_state R48): what Step.lean calls.
-/

namespace Sys2Proof.Machine

/-- The whole of the spec's `step(s, cmd)` (R255): in the error state every command but SYS.RESET is ignored (60_exceptions
R273), else an illegal word raises E_ILLEGAL, else the operation runs. -/
def transact (cmd : Word) (s : State) : Host.Outcome State Fault Refusal :=
  match decode cmd with
  | .instr i => if s.err ≠ 0#4 ∧ i ≠ .sysReset then .next (ignoredState s) else exec i s
  | .illegal _ => if s.err ≠ 0#4 then .next (ignoredState s) else raise .illegal s

/-- The host's next move (R48), oldest first. With none the block is idle (70_reset_and_hazards R301). `rst` has the effect of
SYS.RESET and no response (R300), between commands (DEDUCED, safe, log entry 6). `issue` is one transaction (R17, R75), and `take`
takes the response (10_state R46) (DESIGN CHOICE, safe, log entries 1 and 7). -/
def serve (s : State) : Host.Outcome State Fault Refusal :=
  match s.moves with
  | [] => .next s
  | .rst :: ms => .next (resetState { s with moves := ms })
  | .issue cmd :: ms => transact cmd { s with moves := ms }
  | .take :: ms => .next { s with moves := ms, rsp := none }

/-- The state with the command word of the `nbits` bits of `w` (bits above zero) as the host's next move (30_encoding R90). -/
def issueNext (s : State) (nbits w : Nat) : State :=
  { s with moves := .issue (BitVec.ofNat 32 (w % 2 ^ nbits)) :: s.moves }

end Sys2Proof.Machine
end

