-- ==== Sys2Proof/Machine/Step.lean ====
section
/-!
DEFINITION. One step of the machine: the host's next move served (10_state R48, 44_system R255).
-/

namespace Sys2Proof.Machine

/-- One step: the host's next move, a command word among them, served by the block. -/
def step (s : State) : Host.Outcome State Fault Refusal := serve s

/-- The state in which the very next step takes the table word `w` of `nbits` bits from the host and runs it (log entry 5). -/
def State.withFetchWord (s : State) (nbits w : Nat) : State := issueNext s nbits w

end Sys2Proof.Machine
end

