-- ==== Sys2Proof/Safety.lean ====
section
/-!
DEFINITION. What counts as a safe state and a successful run: the canonical form of the index spaces, the invariants of
10_state R24 with what they rest on, and the success of a command (60_exceptions R274).
-/

namespace Sys2Proof.Machine

/-- Every listed index is below `bound`. -/
def Memory.within {w : Nat} (m : Memory w) (bound : Nat) : Bool := m.all fun e => decide (e.1 < bound)

/-- Every listed cell of FIXED has row and column below `side`. -/
def planeWithin (m : Memory 1) (side : Nat) : Bool :=
  m.all fun e => decide (e.1 / 256 < side) && decide (e.1 % 256 < side)

/-- The four index spaces are in canonical form. -/
abbrev Canonical (s : State) : Prop :=
  Memory.wf unlistedByte s.dbuf = true ∧ Memory.wf unlistedByte s.gen = true ∧ Memory.wf unlistedByte s.rem = true ∧
    Memory.wf unlistedFixed s.fixed = true

/-- The index spaces hold cells only where 20_memory R60 gives them cells. -/
abbrev InRange (s : State) : Prop :=
  Memory.within s.dbuf s.cfg.kMax = true ∧ Memory.within s.gen (s.cfg.nMax + 1) = true ∧
    Memory.within s.rem s.cfg.nMax = true ∧ planeWithin s.fixed s.cfg.sMax = true

/-- The invariants of every reachable state: items 1 to 7 of 10_state R24 (item 8 holds by the type of ZST), and what a step
needs beside them. -/
structure Inv (s : State) : Prop where
  /-- The parameters meet the constraints of 00_scope R8. -/
  params : s.cfg.Valid
  /-- R24 item 1. -/
  bounds : s.k.toNat ≤ s.cfg.kMax ∧ s.n.toNat ≤ s.cfg.nMax ∧ s.ver.toNat ≤ s.cfg.vMax
  /-- The cells DBUF[0..K-1] hold the codewords pushed (20_memory R62). -/
  pushed : (readCells s.dbuf 0 s.k.toNat).isSome = true
  /-- R24 item 2. -/
  generator : s.genv = true → 1 ≤ s.n.toNat ∧ readCells s.gen 0 (s.n.toNat + 1) = some (genpoly s.n.toNat)
  /-- R24 item 3. -/
  remainder : s.remv = true → s.genv = true ∧ 1 ≤ s.k.toNat ∧
    ∃ data, readCells s.dbuf 0 s.k.toNat = some data ∧ readCells s.rem 0 s.n.toNat = some (rsrem data s.n.toNat)
  /-- R24 item 4. -/
  live : s.zst ≠ .idle → s.ver ≠ 0#6
  /-- R24 item 5. -/
  place : s.zst ≠ .idle → s.zmode = true → s.remv = true ∧ bitLength s ≤ countOf s
  /-- R24 item 6. -/
  running : s.zst = .run → s.zp.toNat ≤ pairCount (sideOf s) ∧ s.zt.toNat < sideOf s ∧
    s.zidx.toNat = writableBefore (sideOf s) (isFixed s) (cursorOf s)
  /-- R24 item 7. -/
  finished : s.zst = .done → s.zidx.toNat = countOf s
  /-- "Codes 9 to 15 are never produced" (60_exceptions R270). -/
  errCode : s.err.toNat ≤ 8
  /-- A response presented carries ERR, and no data with an error (10_state R47). -/
  response : ∀ r, s.rsp = some r → r.err = s.err ∧ (r.err ≠ 0#4 → r.data = 0#32)
  /-- The index spaces are in canonical form. -/
  canonical : Canonical s
  /-- The index spaces hold no cell outside their bounds. -/
  inRange : InRange s

/-- A response that reports success: "error field 0" (60_exceptions R274). -/
def Response.ok (r : Response) : Bool := r.err == 0#4

/-- The cursor is on a cell of the grid (42_zigzag R210). -/
def Cursor.onGrid (side : Nat) (c : Cursor) : Prop := c.pair < pairCount side ∧ c.step < side

end Sys2Proof.Machine
end

