-- ==== Sys2Proof/Certificates/Slice0/Obligations.lean ====
section
/-!
DEFINITION. The statements for the provers, each from the numbered rules of spec/ its docstring cites, and the few words they
are written in (namespace Sys2Proof.Spec): how a command ends, the registers and fields as numbers, a product of polynomials.
-/

namespace Sys2Proof.Spec

open Sys2Proof.Machine

/-- `raise E_X` with its code: nothing but ERR changes, response (code, 0) (60_exceptions R272). -/
def raised (code : BitVec 4) (s : State) : Host.Outcome State Fault Refusal :=
  .next { s with err := code, rsp := some { err := code, data := 0#32 } }

/-- `respond(v)`: RES becomes v, response (0, v), nothing else changes (00_scope R13). -/
def responded (v : Word) (s : State) : Host.Outcome State Fault Refusal :=
  .next { s with res := v, rsp := some { err := 0#4, data := v } }

/-- `respond()`: response (0, 0), nothing else changes (00_scope R13). -/
def acked (s : State) : Host.Outcome State Fault Refusal :=
  .next { s with rsp := some { err := 0#4, data := 0#32 } }

/-- "Encoding: OPC ..., format ..." of an operation rule (30_encoding R94). -/
def EncodedAs (i : Instr) (opc : Byte) (f : Format) : Prop := opcOf i = opc ∧ formatOf i = f

/-- ZST after an operation that aborts place-mode traversals (42_zigzag R216). -/
def abortedZst (s : State) : Zst := if s.zmode then .idle else s.zst

/-- The opcode values R96 lists as unassigned. -/
def Unassigned (opc : Nat) : Prop :=
  (0x03 ≤ opc ∧ opc ≤ 0x0F) ∨ (0x15 ≤ opc ∧ opc ≤ 0x1F) ∨ (0x29 ≤ opc ∧ opc ≤ 0x2F) ∨ (0x36 ≤ opc ∧ opc ≤ 0x3F) ∨
    (0x42 ≤ opc ∧ opc ≤ 0xFF)

/-- A listed opcode with a nonzero must-be-zero bit: bits 23:0 of Z0, 23:8 of B, 23:16 of AB and W (R91, R94, R96). -/
def NonzeroMbz (cmd : Nat) : Prop :=
  (cmd / 2 ^ 24 ∈ [0x00, 0x01, 0x21, 0x22, 0x24, 0x33, 0x34] ∧ cmd % 2 ^ 24 ≠ 0) ∨
    (cmd / 2 ^ 24 ∈ [0x02, 0x13, 0x20, 0x23, 0x25, 0x26, 0x27, 0x30, 0x32, 0x41] ∧ cmd / 2 ^ 8 % 2 ^ 16 ≠ 0) ∨
    (cmd / 2 ^ 24 ∈ [0x10, 0x11, 0x12, 0x14, 0x28, 0x31, 0x35, 0x40] ∧ cmd / 2 ^ 16 % 2 ^ 8 ≠ 0)

/-- The command word of an operation as a number (30_encoding R90 to R94). -/
def wordOf : Instr → Nat
  | .sysNop => 0x00000000
  | .sysReset => 0x01000000
  | .sysRdreg b => 0x02000000 + b.toNat
  | .gfAdd a b => 0x10000000 + 256 * a.toNat + b.toNat
  | .gfMul a b => 0x11000000 + 256 * a.toNat + b.toNat
  | .gfExp w => 0x12000000 + w.toNat
  | .gfLog b => 0x13000000 + b.toNat
  | .gfPow a b => 0x14000000 + 256 * a.toNat + b.toNat
  | .rsSetn b => 0x20000000 + b.toNat
  | .rsGen => 0x21000000
  | .rsClr => 0x22000000
  | .rsPush b => 0x23000000 + b.toNat
  | .rsEnc => 0x24000000
  | .rsRdgen b => 0x25000000 + b.toNat
  | .rsRdrem b => 0x26000000 + b.toNat
  | .rsRddat b => 0x27000000 + b.toNat
  | .rsRdbit w => 0x28000000 + w.toNat
  | .zzSetver b => 0x30000000 + b.toNat
  | .zzFix a b => 0x31000000 + 256 * a.toNat + b.toNat
  | .zzStart b => 0x32000000 + b.toNat
  | .zzNext => 0x33000000
  | .zzCount => 0x34000000
  | .zzRdfix a b => 0x35000000 + 256 * a.toNat + b.toNat
  | .fmtEnc a b => 0x40000000 + 256 * a.toNat + b.toNat
  | .fmtBch b => 0x41000000 + b.toNat

/-- The error codes the table of 60_exceptions R270 lists for each operation. -/
def raisable : Instr → List Nat
  | .sysNop | .sysReset | .gfAdd _ _ | .gfMul _ _ | .gfPow _ _ | .rsClr => []
  | .sysRdreg _ | .gfExp _ | .rsSetn _ | .rsRddat _ | .zzSetver _ | .fmtBch _ => [2]
  | .gfLog _ => [3]
  | .rsPush _ => [5]
  | .rsGen | .rsEnc => [6]
  | .rsRdgen _ | .rsRdrem _ | .rsRdbit _ => [6, 2]
  | .zzNext | .zzCount => [7]
  | .zzFix _ _ | .zzRdfix _ _ => [7, 2]
  | .zzStart _ => [2, 7, 8]
  | .fmtEnc _ _ => [4, 2]

/-- The operations whose rule ends with `respond(v)` rather than `respond()`. -/
def ReturnsValue : Instr → Prop
  | .sysNop | .sysReset | .rsSetn _ | .rsGen | .rsClr | .rsPush _ | .rsEnc | .zzFix _ _ => False
  | .sysRdreg _ | .gfAdd _ _ | .gfMul _ _ | .gfExp _ | .gfLog _ | .gfPow _ _ | .rsRdgen _ | .rsRdrem _ | .rsRddat _
  | .rsRdbit _ | .zzSetver _ | .zzStart _ | .zzNext | .zzCount | .zzRdfix _ _ | .fmtEnc _ _ | .fmtBch _ => True

/-- The operations that abort a traversal, in the given ZMODE (42_zigzag R216), reset among them. -/
def Aborts (placeMode : Bool) : Instr → Prop
  | .zzFix _ _ | .zzSetver _ | .sysReset => True
  | .rsSetn _ | .rsClr | .rsPush _ => placeMode = true
  | .sysNop | .sysRdreg _ | .gfAdd _ _ | .gfMul _ _ | .gfExp _ | .gfLog _ | .gfPow _ _ | .rsGen | .rsEnc | .rsRdgen _
  | .rsRdrem _ | .rsRddat _ | .rsRdbit _ | .zzStart _ | .zzNext | .zzCount | .zzRdfix _ _ | .fmtEnc _ _ | .fmtBch _ => False

/-- ZST as STATUS shows it: 0 IDLE, 1 RUN, 2 DONE (10_state R31). -/
def zstNumber : Zst → Nat
  | .idle => 0
  | .run => 1
  | .done => 2

/-- The registers 0 to 9 as numbers (10_state R30 to R39). -/
def regNumber (s : State) : Nat → Nat
  | 0 => 0x51520001
  | 1 => s.err.toNat + 16 * s.genv.toNat + 32 * s.remv.toNat + 64 * zstNumber s.zst + 256 * s.zmode.toNat +
      512 * (if s.ver = 0#6 then 0 else 1)
  | 2 => s.k.toNat
  | 3 => s.n.toNat
  | 4 => s.ver.toNat
  | 5 => if s.ver = 0#6 then 0 else 17 + 4 * s.ver.toNat
  | 6 => s.zidx.toNat
  | 7 => 65536 * s.zp.toNat + 256 * s.zt.toNat + s.zh.toNat
  | 8 => s.res.toNat
  | _ => 65536 * s.cfg.vMax + 256 * s.cfg.nMax + s.cfg.kMax

/-- `t` is in the reset state of 10_state R50: every register 0, and every buffer cell unreadable. -/
def IsReset (s t : State) : Prop :=
  t.cfg = s.cfg ∧ t.err = 0#4 ∧ t.res = 0#32 ∧ t.k = 0#8 ∧ t.n = 0#8 ∧ t.genv = false ∧ t.remv = false ∧ t.ver = 0#6 ∧
    t.zst = .idle ∧ t.zmode = false ∧ t.zp = 0#8 ∧ t.zt = 0#8 ∧ t.zh = false ∧ t.zidx = 0#16 ∧
    (∀ b, exec (.rsRddat b) t = raised 2#4 t) ∧ (∀ b, exec (.rsRdgen b) t = raised 6#4 t) ∧
    (∀ b, exec (.rsRdrem b) t = raised 6#4 t) ∧ ∀ a b, exec (.zzRdfix a b) t = raised 7#4 t

/-- The product of two polynomials over GF(2), written as numbers: XOR of the shifts of `a` by the set bits of `b` below 8. -/
def clmul (a b : Nat) : Nat :=
  [0, 1, 2, 3, 4, 5, 6, 7].foldl (fun acc i => if b.testBit i then acc ^^^ (a <<< i) else acc) 0

/-- The remainder of a polynomial of degree below 15 on division by x^8 + x^4 + x^3 + x^2 + 1. -/
def reduce (v : Nat) : Nat :=
  [6, 5, 4, 3, 2, 1, 0].foldl (fun r i => if r.testBit (i + 8) then r ^^^ (0x11D <<< i) else r) v

/-- The number of set bits below 15. -/
def weight15 (v : Nat) : Nat := (List.range 15).countP fun i => v.testBit i

/-- Codeword j of the final codeword string (20_memory R65), as its cell holds it. -/
def codeword (s : State) (j : Nat) : Option Byte :=
  if j < s.k.toNat then Memory.read unlistedByte s.dbuf j else Memory.read unlistedByte s.rem (j - s.k.toNat)

/-- The side of a version v ≥ 1: 17 + 4*v (10_state R35). -/
def sideOfVersion (v : Nat) : Nat := 17 + 4 * v

end Sys2Proof.Spec

open Sys2Proof Sys2Proof.Machine Sys2Proof.Spec

/-! ## Encoding -/

/-- Decoding the word of an operation gives the operation back, with every operand at every value (30_encoding R90 to R95). -/
def Obligations.DecodeOfEncode : Prop := ∀ i : Instr, decode (encode i) = .instr i

/-- Each word has one meaning: a word that decodes to an operation is the word of that operation (30_encoding R95; no ignored
bits, R96). -/
def Obligations.EncodeOfDecode : Prop := ∀ (cmd : Word) (i : Instr), decode cmd = .instr i → encode i = cmd

/-- The word of each operation as a number: opcode in bits 31:24, a in 15:8, b in 7:0, w in 15:0 (30_encoding R90 to R94). -/
def Obligations.EncodedWordLayout : Prop := ∀ i : Instr, (encode i).toNat = wordOf i

/-- 30_encoding R96: which words are illegal, what an illegal word does with ERR = 0 and with ERR ≠ 0, and that SYS.NOP is the
all-zeros word alone. The moves are the model's form of the host (log entry 1). -/
def Obligations.IllegalWordsExactly : Prop :=
  (∀ cmd : Word, (∃ why, decode cmd = .illegal why) ↔ Unassigned (cmd.toNat / 2 ^ 24) ∨ NonzeroMbz cmd.toNat) ∧
  (∀ (s : State) (cmd : Word) (ms : List HostMove), s.moves = .issue cmd :: ms → (∃ why, decode cmd = .illegal why) →
    step s = if s.err = 0#4 then raised 1#4 { s with moves := ms }
      else .next { s with moves := ms, rsp := some { err := s.err, data := 0#32 } }) ∧
  (∃ why, decode 0xFFFFFFFF#32 = .illegal why) ∧ ∀ cmd : Word, decode cmd = .instr .sysNop ↔ cmd = 0#32

/-- 30_encoding R91, R100: the opcode table decodes. At most one row selects a word, none selects an illegal word, and the row
that selects a legal one is that of its operation. -/
def Obligations.TableSelectsDecoded : Prop :=
  ∀ cmd : Word,
    (∀ p ∈ opcodeTable, ∀ q ∈ opcodeTable, p.selects cmd = true → q.selects cmd = true → p = q) ∧
    (∀ i, decode cmd = .instr i → ∃ r ∈ opcodeTable, r.selects cmd = true ∧ r.opc = opcOf i ∧ r.format = formatOf i) ∧
    ((∃ why, decode cmd = .illegal why) → ∀ r ∈ opcodeTable, r.selects cmd = false)

/-- The six example words of 30_encoding R98, and one word more of each family from the examples of its operation rules (44_system
R252, 40_gf256 R139, 41_reed_solomon R163, 42_zigzag R202, 43_format_bch R241), decode to what the spec writes beside them. -/
def Obligations.SpecExampleWordsDecode : Prop :=
  decode 0x00000000#32 = .instr .sysNop ∧ decode 0x110053CA#32 = .instr (.gfMul 0x53#8 0xCA#8) ∧
  decode 0x1200012C#32 = .instr (.gfExp 300#16) ∧ decode 0x23000020#32 = .instr (.rsPush 0x20#8) ∧
  decode 0x31000614#32 = .instr (.zzFix 6#8 20#8) ∧ decode 0x40000100#32 = .instr (.fmtEnc 1#8 0#8) ∧
  decode 0x02000000#32 = .instr (.sysRdreg 0#8) ∧ decode 0x14000208#32 = .instr (.gfPow 2#8 8#8) ∧
  decode 0x28000002#32 = .instr (.rsRdbit 2#16) ∧ decode 0x30000001#32 = .instr (.zzSetver 1#8) ∧
  decode 0x41000008#32 = .instr (.fmtBch 8#8)

/-! ## The step -/

/-- 44_system R255: one command word through the block. A legal word with ERR = 0, or SYS.RESET in any state, runs its operation;
an illegal word with ERR = 0 raises E_ILLEGAL; every other command in the error state changes nothing and is answered
(ERR, 0). The step takes the host's move off the list before; the list is the model's form of the host (log entry 1). -/
def Obligations.StepRunsDecodedCommand : Prop :=
  ∀ (s : State) (cmd : Word) (ms : List HostMove), s.moves = .issue cmd :: ms →
    (∀ i, decode cmd = .instr i → s.err = 0#4 ∨ i = .sysReset → step s = exec i { s with moves := ms }) ∧
    (∀ why, decode cmd = .illegal why → s.err = 0#4 → step s = raised 1#4 { s with moves := ms }) ∧
    (decode cmd ≠ .instr .sysReset → s.err ≠ 0#4 →
      step s = .next { s with moves := ms, rsp := some { err := s.err, data := 0#32 } })

/-- Without a move the block is idle (70_reset_and_hazards R301); a response taken is presented no longer (10_state R46, R48).
The list of moves is the model's own (log entries 1, 5 and 7). -/
def Obligations.IdleAndTake : Prop :=
  ∀ s : State, (s.moves = [] → step s = .next s) ∧
    ∀ ms, s.moves = .take :: ms → step s = .next { s with moves := ms, rsp := none }

/-- 60_exceptions R273: in the error state a command other than a well-formed SYS.RESET changes nothing and is answered (ERR, 0);
SYS.RESET and the pin rst return to the reset state with ERR = 0; no other step changes ERR. The moves are the model's form of the
host (log entry 1). -/
def Obligations.ErrorStateLeftOnlyByReset : Prop :=
  ∀ s : State, s.err ≠ 0#4 →
    (∀ cmd ms, s.moves = .issue cmd :: ms → cmd ≠ 0x01000000#32 →
      step s = .next { s with moves := ms, rsp := some { err := s.err, data := 0#32 } }) ∧
    (∀ ms, s.moves = .issue 0x01000000#32 :: ms → ∃ t, step s = .next t ∧ IsReset s t) ∧
    (∀ ms, s.moves = .rst :: ms → ∃ t, step s = .next t ∧ IsReset s t) ∧
    ∀ t, step s = .next t → t.err ≠ s.err →
      ∃ ms, s.moves = .issue 0x01000000#32 :: ms ∨ s.moves = .rst :: ms

/-- 60_exceptions R272: an operation that raises changes nothing but ERR, and is answered (code, 0). -/
def Obligations.RaiseWritesErrOnly : Prop :=
  ∀ (i : Instr) (s t : State), s.err = 0#4 → exec i s = .next t → t.err ≠ 0#4 →
    t = { s with err := t.err, rsp := some { err := t.err, data := 0#32 } }

/-- 60_exceptions R271: an operation raises only errors the table of R270 lists for it, and each of those is raised by the
operation with some operands in some state with ERR = 0. -/
def Obligations.ErrorsRaisedExactly : Prop :=
  (∀ (i : Instr) (s t : State), s.err = 0#4 → exec i s = .next t → t.err = 0#4 ∨ t.err.toNat ∈ raisable i) ∧
  ∀ (i : Instr) (e : Nat), e ∈ raisable i →
    ∃ (j : Instr) (s t : State), opcOf j = opcOf i ∧ s.err = 0#4 ∧ exec j s = .next t ∧ t.err.toNat = e

/-- 10_state R46, R47: every command gets exactly one response; its error field is ERR after the command, and its data is 0 with
a nonzero error. -/
def Obligations.ResponseCarriesErr : Prop :=
  ∀ (s t : State) (cmd : Word) (ms : List HostMove), s.moves = .issue cmd :: ms → step s = .next t →
    ∃ r, t.rsp = some r ∧ r.err = t.err ∧ (r.err ≠ 0#4 → r.data = 0#32)

/-- 10_state R38: RES is the value of the last operation that ended with `respond(v)`, which is also its response's data;
`respond()` and `raise` leave it; SYS.RDREG 8 answers it and writes the same value. -/
def Obligations.ResLatchesLastValue : Prop :=
  (∀ (i : Instr) (s t : State), s.err = 0#4 → i ≠ .sysReset → exec i s = .next t →
    (t.err = 0#4 → ReturnsValue i → t.rsp = some { err := 0#4, data := t.res }) ∧
    (t.err ≠ 0#4 ∨ ¬ ReturnsValue i → t.res = s.res)) ∧
  ∀ s : State, exec (.sysRdreg 8#8) s = .next { s with rsp := some { err := 0#4, data := s.res } }

/-- Which operations write which register, flag and space (10_state R23, R25; 20_memory R60), and that none writes the
parameters or what the host will do. -/
def Obligations.WritersOfEachField : Prop :=
  ∀ (i : Instr) (s t : State), exec i s = .next t → i ≠ .sysReset →
    t.cfg = s.cfg ∧ t.moves = s.moves ∧
    (t.k ≠ s.k → i = .rsClr ∨ ∃ b, i = .rsPush b) ∧
    (t.dbuf ≠ s.dbuf → ∃ b, i = .rsPush b) ∧
    (t.n ≠ s.n → ∃ b, i = .rsSetn b) ∧
    (t.genv ≠ s.genv → i = .rsGen ∨ ∃ b, i = .rsSetn b) ∧
    (t.gen ≠ s.gen → i = .rsGen) ∧
    (t.remv ≠ s.remv → i = .rsEnc ∨ i = .rsClr ∨ (∃ b, i = .rsSetn b) ∨ ∃ b, i = .rsPush b) ∧
    (t.rem ≠ s.rem → i = .rsEnc) ∧
    (t.ver ≠ s.ver → ∃ b, i = .zzSetver b) ∧
    (t.fixed ≠ s.fixed → (∃ b, i = .zzSetver b) ∨ ∃ a b, i = .zzFix a b) ∧
    (t.zst ≠ s.zst → i = .zzNext ∨ i = .rsClr ∨ (∃ b, i = .zzStart b ∨ i = .zzSetver b ∨ i = .rsSetn b ∨ i = .rsPush b) ∨
      ∃ a b, i = .zzFix a b) ∧
    (t.zmode ≠ s.zmode → ∃ b, i = .zzStart b ∨ i = .zzSetver b) ∧
    (t.zp ≠ s.zp ∨ t.zt ≠ s.zt ∨ t.zh ≠ s.zh ∨ t.zidx ≠ s.zidx → i = .zzNext ∨ ∃ b, i = .zzStart b ∨ i = .zzSetver b)

/-! ## Invariants -/

/-- The invariants of 10_state R24 (and what they rest on) are kept by every step from every state that meets them. -/
def Obligations.InvariantKept : Prop := ∀ s t : State, Inv s → step s = .next t → Inv t

/-- The invariants of 10_state R24 hold right after reset. -/
def Obligations.ResetMeetsInvariant : Prop := Inv State.reset

/-- From every state that meets the invariants a step answers a next state: the block never hangs (70_reset_and_hazards R313), and
no operation reads a cell that holds no value (10_state R50 "no rule reads one"; log entry 3). -/
def Obligations.StepAlwaysAnswers : Prop := ∀ s : State, Inv s → ∃ t, step s = .next t

/-- Every step keeps the four index spaces in canonical form, in every state (the form of the model's own, log entry 13). -/
def Obligations.SpacesStayCanonical : Prop := ∀ s t : State, Canonical s → step s = .next t → Canonical t

/-! ## SYS -/

/-- 44_system R250: SYS.NOP. -/
def Obligations.SysNopResult : Prop :=
  EncodedAs .sysNop 0x00#8 .z0 ∧ encode .sysNop = 0#32 ∧ ∀ s : State, exec .sysNop s = acked s

/-- 44_system R251, 70_reset_and_hazards R300, 10_state R50: SYS.RESET and the pin rst leave the reset state, whatever the state
before; SYS.RESET is answered (0, 0), rst has no response and discards one not taken. The moves are the model's form of the host
(log entry 1). -/
def Obligations.ResetLeavesResetState : Prop :=
  EncodedAs .sysReset 0x01#8 .z0 ∧ encode .sysReset = 0x01000000#32 ∧ IsReset State.reset State.reset ∧
  ∀ s : State,
    (∃ t, exec .sysReset s = .next t ∧ IsReset s t ∧ t.moves = s.moves ∧ t.rsp = some { err := 0#4, data := 0#32 }) ∧
    ∀ ms, s.moves = .rst :: ms → ∃ t, step s = .next t ∧ IsReset s t ∧ t.moves = ms ∧ t.rsp = none

/-- 44_system R252 with the registers of 10_state R30, R31, R37, R39: SYS.RDREG answers register b for b ≤ 9 and raises E_RANGE
above. -/
def Obligations.SysRdregResult : Prop :=
  ∀ (s : State) (b : Byte), EncodedAs (.sysRdreg b) 0x02#8 .b ∧
    (9 < b.toNat → exec (.sysRdreg b) s = raised 2#4 s) ∧
    (b.toNat ≤ 9 → s.cfg.Valid → ∃ v, exec (.sysRdreg b) s = responded v s ∧ v.toNat = regNumber s b.toNat)

/-! ## GF -/

/-- 40_gf256 R135: GF.ADD. -/
def Obligations.GfAddResult : Prop :=
  ∀ (a b : Byte) (s : State), EncodedAs (.gfAdd a b) 0x10#8 .ab ∧
    exec (.gfAdd a b) s = responded ((a ^^^ b).setWidth 32) s

/-- 40_gf256 R136: GF.MUL answers gfmul(a, b), with its corner cases. -/
def Obligations.GfMulResult : Prop :=
  (∀ (a b : Byte) (s : State), EncodedAs (.gfMul a b) 0x11#8 .ab ∧
    exec (.gfMul a b) s = responded ((gfmul a b).setWidth 32) s) ∧
  (∀ a : Byte, gfmul 0#8 a = 0#8 ∧ gfmul a 0#8 = 0#8 ∧ gfmul 1#8 a = a) ∧
  gfmul 2#8 128#8 = 29#8 ∧ gfmul 142#8 2#8 = 1#8 ∧ gfmul 0x53#8 0xCA#8 = 0x8F#8

/-- 40_gf256 R137: GF.EXP answers EXP[w] for w ≤ 511 and raises E_RANGE above; its corner cases. -/
def Obligations.GfExpResult : Prop :=
  (∀ (w : Half) (s : State), EncodedAs (.gfExp w) 0x12#8 .w ∧
    (511 < w.toNat → exec (.gfExp w) s = raised 2#4 s) ∧
    (w.toNat ≤ 511 → exec (.gfExp w) s = responded ((gfexp w.toNat).setWidth 32) s)) ∧
  gfexp 0 = 1#8 ∧ gfexp 8 = 0x1D#8 ∧ gfexp 254 = 0x8E#8 ∧ gfexp 255 = 1#8 ∧ gfexp 256 = 2#8 ∧ gfexp 511 = 2#8

/-- 40_gf256 R138: GF.LOG raises E_LOG_ZERO for 0 and otherwise answers the i in 0..254 with EXP[i] = b; its corner
cases. -/
def Obligations.GfLogResult : Prop :=
  (∀ (b : Byte) (s : State), EncodedAs (.gfLog b) 0x13#8 .b ∧
    (b = 0#8 → exec (.gfLog b) s = raised 3#4 s) ∧
    (b ≠ 0#8 → ∃ i, i ≤ 254 ∧ gfexp i = b ∧ gflog b = some i ∧ exec (.gfLog b) s = responded (BitVec.ofNat 32 i) s)) ∧
  gflog 1#8 = some 0 ∧ gflog 2#8 = some 1 ∧ gflog 0x1D#8 = some 8 ∧ gflog 255#8 = some 175

/-- 40_gf256 R139: GF.POW answers gfpow(a, b), with its corner cases. -/
def Obligations.GfPowResult : Prop :=
  (∀ (a b : Byte) (s : State), EncodedAs (.gfPow a b) 0x14#8 .ab ∧
    exec (.gfPow a b) s = responded ((gfpow a b.toNat).setWidth 32) s) ∧
  (∀ a : Byte, gfpow a 0 = 1#8) ∧ (∀ a : Byte, a ≠ 0#8 → gfmul a (gfpow a 254) = 1#8) ∧ gfpow 0#8 0 = 1#8 ∧ gfpow 0#8 5 = 0#8 ∧ gfpow 2#8 255 = 1#8 ∧ gfpow 2#8 254 = 142#8 ∧ gfpow 2#8 8 = 29#8

/-- 40_gf256 R121, R122: the exponent table by its recurrence, over plain numbers, and its period 255. -/
def Obligations.ExpTableRecurrence : Prop :=
  (gfexp 0).toNat = 1 ∧
  (∀ i, 1 ≤ i → i ≤ 254 → (gfexp i).toNat =
    if 2 * (gfexp (i - 1)).toNat < 256 then 2 * (gfexp (i - 1)).toNat else (2 * (gfexp (i - 1)).toNat) ^^^ 0x11D) ∧
  ∀ i, 255 ≤ i → i ≤ 511 → gfexp i = gfexp (i - 255)

/-- 40_gf256 R123, R127: the full tables EXP[0..255] and LOG[1..255]; EXP[0..254] are the integers 1 to 255, each once, and 0 never
occurs. -/
def Obligations.ExpLogTables : Prop :=
  (List.range 256).map (fun i => (gfexp i).toNat) =
    [0x01, 0x02, 0x04, 0x08, 0x10, 0x20, 0x40, 0x80, 0x1D, 0x3A, 0x74, 0xE8, 0xCD, 0x87, 0x13, 0x26] ++
    [0x4C, 0x98, 0x2D, 0x5A, 0xB4, 0x75, 0xEA, 0xC9, 0x8F, 0x03, 0x06, 0x0C, 0x18, 0x30, 0x60, 0xC0] ++
    [0x9D, 0x27, 0x4E, 0x9C, 0x25, 0x4A, 0x94, 0x35, 0x6A, 0xD4, 0xB5, 0x77, 0xEE, 0xC1, 0x9F, 0x23] ++
    [0x46, 0x8C, 0x05, 0x0A, 0x14, 0x28, 0x50, 0xA0, 0x5D, 0xBA, 0x69, 0xD2, 0xB9, 0x6F, 0xDE, 0xA1] ++
    [0x5F, 0xBE, 0x61, 0xC2, 0x99, 0x2F, 0x5E, 0xBC, 0x65, 0xCA, 0x89, 0x0F, 0x1E, 0x3C, 0x78, 0xF0] ++
    [0xFD, 0xE7, 0xD3, 0xBB, 0x6B, 0xD6, 0xB1, 0x7F, 0xFE, 0xE1, 0xDF, 0xA3, 0x5B, 0xB6, 0x71, 0xE2] ++
    [0xD9, 0xAF, 0x43, 0x86, 0x11, 0x22, 0x44, 0x88, 0x0D, 0x1A, 0x34, 0x68, 0xD0, 0xBD, 0x67, 0xCE] ++
    [0x81, 0x1F, 0x3E, 0x7C, 0xF8, 0xED, 0xC7, 0x93, 0x3B, 0x76, 0xEC, 0xC5, 0x97, 0x33, 0x66, 0xCC] ++
    [0x85, 0x17, 0x2E, 0x5C, 0xB8, 0x6D, 0xDA, 0xA9, 0x4F, 0x9E, 0x21, 0x42, 0x84, 0x15, 0x2A, 0x54] ++
    [0xA8, 0x4D, 0x9A, 0x29, 0x52, 0xA4, 0x55, 0xAA, 0x49, 0x92, 0x39, 0x72, 0xE4, 0xD5, 0xB7, 0x73] ++
    [0xE6, 0xD1, 0xBF, 0x63, 0xC6, 0x91, 0x3F, 0x7E, 0xFC, 0xE5, 0xD7, 0xB3, 0x7B, 0xF6, 0xF1, 0xFF] ++
    [0xE3, 0xDB, 0xAB, 0x4B, 0x96, 0x31, 0x62, 0xC4, 0x95, 0x37, 0x6E, 0xDC, 0xA5, 0x57, 0xAE, 0x41] ++
    [0x82, 0x19, 0x32, 0x64, 0xC8, 0x8D, 0x07, 0x0E, 0x1C, 0x38, 0x70, 0xE0, 0xDD, 0xA7, 0x53, 0xA6] ++
    [0x51, 0xA2, 0x59, 0xB2, 0x79, 0xF2, 0xF9, 0xEF, 0xC3, 0x9B, 0x2B, 0x56, 0xAC, 0x45, 0x8A, 0x09] ++
    [0x12, 0x24, 0x48, 0x90, 0x3D, 0x7A, 0xF4, 0xF5, 0xF7, 0xF3, 0xFB, 0xEB, 0xCB, 0x8B, 0x0B, 0x16] ++
    [0x2C, 0x58, 0xB0, 0x7D, 0xFA, 0xE9, 0xCF, 0x83, 0x1B, 0x36, 0x6C, 0xD8, 0xAD, 0x47, 0x8E, 0x01] ∧
  (List.range 255).map (fun v => gflog (BitVec.ofNat 8 (v + 1))) = List.map some (
    [0x00, 0x01, 0x19, 0x02, 0x32, 0x1A, 0xC6, 0x03, 0xDF, 0x33, 0xEE, 0x1B, 0x68, 0xC7, 0x4B] ++
    [0x04, 0x64, 0xE0, 0x0E, 0x34, 0x8D, 0xEF, 0x81, 0x1C, 0xC1, 0x69, 0xF8, 0xC8, 0x08, 0x4C, 0x71] ++
    [0x05, 0x8A, 0x65, 0x2F, 0xE1, 0x24, 0x0F, 0x21, 0x35, 0x93, 0x8E, 0xDA, 0xF0, 0x12, 0x82, 0x45] ++
    [0x1D, 0xB5, 0xC2, 0x7D, 0x6A, 0x27, 0xF9, 0xB9, 0xC9, 0x9A, 0x09, 0x78, 0x4D, 0xE4, 0x72, 0xA6] ++
    [0x06, 0xBF, 0x8B, 0x62, 0x66, 0xDD, 0x30, 0xFD, 0xE2, 0x98, 0x25, 0xB3, 0x10, 0x91, 0x22, 0x88] ++
    [0x36, 0xD0, 0x94, 0xCE, 0x8F, 0x96, 0xDB, 0xBD, 0xF1, 0xD2, 0x13, 0x5C, 0x83, 0x38, 0x46, 0x40] ++
    [0x1E, 0x42, 0xB6, 0xA3, 0xC3, 0x48, 0x7E, 0x6E, 0x6B, 0x3A, 0x28, 0x54, 0xFA, 0x85, 0xBA, 0x3D] ++
    [0xCA, 0x5E, 0x9B, 0x9F, 0x0A, 0x15, 0x79, 0x2B, 0x4E, 0xD4, 0xE5, 0xAC, 0x73, 0xF3, 0xA7, 0x57] ++
    [0x07, 0x70, 0xC0, 0xF7, 0x8C, 0x80, 0x63, 0x0D, 0x67, 0x4A, 0xDE, 0xED, 0x31, 0xC5, 0xFE, 0x18] ++
    [0xE3, 0xA5, 0x99, 0x77, 0x26, 0xB8, 0xB4, 0x7C, 0x11, 0x44, 0x92, 0xD9, 0x23, 0x20, 0x89, 0x2E] ++
    [0x37, 0x3F, 0xD1, 0x5B, 0x95, 0xBC, 0xCF, 0xCD, 0x90, 0x87, 0x97, 0xB2, 0xDC, 0xFC, 0xBE, 0x61] ++
    [0xF2, 0x56, 0xD3, 0xAB, 0x14, 0x2A, 0x5D, 0x9E, 0x84, 0x3C, 0x39, 0x53, 0x47, 0x6D, 0x41, 0xA2] ++
    [0x1F, 0x2D, 0x43, 0xD8, 0xB7, 0x7B, 0xA4, 0x76, 0xC4, 0x17, 0x49, 0xEC, 0x7F, 0x0C, 0x6F, 0xF6] ++
    [0x6C, 0xA1, 0x3B, 0x52, 0x29, 0x9D, 0x55, 0xAA, 0xFB, 0x60, 0x86, 0xB1, 0xBB, 0xCC, 0x3E, 0x5A] ++
    [0xCB, 0x59, 0x5F, 0xB0, 0x9C, 0xA9, 0xA0, 0x51, 0x0B, 0xF5, 0x16, 0xEB, 0x7A, 0x75, 0x2C, 0xD7] ++
    [0x4F, 0xAE, 0xD5, 0xE9, 0xE6, 0xE7, 0xAD, 0xE8, 0x74, 0xD6, 0xF4, 0xEA, 0xA8, 0x50, 0x58, 0xAF]) ∧
  (∀ i, i ≤ 511 → gfexp i ≠ 0#8) ∧ ∀ v : Byte, v ≠ 0#8 → ∃ i, i < 255 ∧ gfexp i = v ∧ ∀ j, j < 255 → gfexp j = v → j = i

/-- 40_gf256 R123, R124, R127: EXP[0..254] are exactly the 255 nonzero elements, each once; LOG is the inverse, and has no value
at 0. -/
def Obligations.LogInvertsExp : Prop :=
  (∀ (v : Byte) (i : Nat), gflog v = some i ↔ i < 255 ∧ gfexp i = v) ∧ (∀ v : Byte, gflog v = none ↔ v = 0#8) ∧
  (∀ i j, i < 255 → j < 255 → gfexp i = gfexp j → i = j) ∧
  gflog 1#8 = some 0 ∧ gflog 2#8 = some 1 ∧ gflog 3#8 = some 25 ∧ gflog 29#8 = some 8 ∧ gflog 142#8 = some 254

/-- 40_gf256 R128, R129: multiplication by logs, with the sum (at most 508) reduced modulo 255 or looked up unreduced; the product of
nonzero elements is nonzero. -/
def Obligations.MulByLogs : Prop :=
  ∀ a b : Byte, ((a = 0#8 ∨ b = 0#8) → gfmul a b = 0#8) ∧ (a ≠ 0#8 → b ≠ 0#8 → gfmul a b ≠ 0#8) ∧
    ∀ i j, gflog a = some i → gflog b = some j →
      gfmul a b = gfexp ((i + j) % 255) ∧ i + j ≤ 508 ∧ gfmul a b = gfexp (i + j)

/-- 40_gf256 R130: gfmul is the product of polynomials over GF(2) modulo x^8+x^4+x^3+x^2+1. -/
def Obligations.MulIsPolynomialProduct : Prop :=
  ∀ a b : Byte, (gfmul a b).toNat = reduce (clmul a.toNat b.toNat)

/-- 40_gf256 R133: with gfadd and gfmul the 256 elements form a field. -/
def Obligations.FieldLaws : Prop :=
  (∀ a b : Byte, gfadd a b = gfadd b a ∧ gfmul a b = gfmul b a) ∧
  (∀ a b c : Byte, gfadd (gfadd a b) c = gfadd a (gfadd b c) ∧ gfmul (gfmul a b) c = gfmul a (gfmul b c)) ∧
  (∀ a b c : Byte, gfmul a (gfadd b c) = gfadd (gfmul a b) (gfmul a c)) ∧
  (∀ a : Byte, gfadd a a = 0#8 ∧ gfmul a 1#8 = a ∧ gfmul a 0#8 = 0#8) ∧
  (∀ (a : Byte) (i : Nat), gflog a = some i → gfmul a (gfexp ((255 - i) % 255)) = 1#8) ∧
  ∀ a b : Byte, gfmul a b = 0#8 → a = 0#8 ∨ b = 0#8

/-- 40_gf256 R132: gfpow is repeated multiplication, the empty product being 1, and its value by logs. -/
def Obligations.PowIsRepeatedMul : Prop :=
  ∀ (a : Byte) (k : Nat), gfpow a 0 = 1#8 ∧ gfpow a (k + 1) = gfmul (gfpow a k) a ∧ gfpow 0#8 (k + 1) = 0#8 ∧
    ∀ i, gflog a = some i → gfpow a (k + 1) = gfexp ((i * (k + 1)) % 255)

/-! ## RS -/

/-- 41_reed_solomon R155: RS.SETN. -/
def Obligations.RsSetnResult : Prop :=
  ∀ (b : Byte) (s : State), EncodedAs (.rsSetn b) 0x20#8 .b ∧
    (b = 0#8 ∨ s.cfg.nMax < b.toNat → exec (.rsSetn b) s = raised 2#4 s) ∧
    (b ≠ 0#8 → b.toNat ≤ s.cfg.nMax →
      exec (.rsSetn b) s = acked { s with n := b, genv := false, remv := false, zst := abortedZst s })

/-- 41_reed_solomon R156: RS.GEN writes genpoly(N) to GEN[0..N], sets GENV, and leaves every other cell and field. -/
def Obligations.RsGenResult : Prop :=
  ∀ s : State, EncodedAs .rsGen 0x21#8 .z0 ∧ (s.n = 0#8 → exec .rsGen s = raised 6#4 s) ∧
    (s.n ≠ 0#8 → Memory.wf unlistedByte s.gen = true →
      ∃ g, exec .rsGen s = acked { s with gen := g, genv := true } ∧
        (∀ i, i ≤ s.n.toNat → Memory.read unlistedByte g i = (genpoly s.n.toNat)[i]?) ∧
        ∀ i, s.n.toNat < i → Memory.read unlistedByte g i = Memory.read unlistedByte s.gen i)

/-- 41_reed_solomon R157: RS.CLR. -/
def Obligations.RsClrResult : Prop :=
  EncodedAs .rsClr 0x22#8 .z0 ∧
    ∀ s : State, exec .rsClr s = acked { s with k := 0#8, remv := false, zst := abortedZst s }

/-- 41_reed_solomon R158: RS.PUSH writes DBUF[K], adds 1 to K, clears REMV, and leaves every other cell and field. -/
def Obligations.RsPushResult : Prop :=
  ∀ (b : Byte) (s : State), EncodedAs (.rsPush b) 0x23#8 .b ∧
    (s.k.toNat = s.cfg.kMax → exec (.rsPush b) s = raised 5#4 s) ∧
    (s.k.toNat < s.cfg.kMax → s.cfg.Valid → Memory.wf unlistedByte s.dbuf = true →
      ∃ d k', exec (.rsPush b) s = acked { s with dbuf := d, k := k', remv := false, zst := abortedZst s } ∧
        k'.toNat = s.k.toNat + 1 ∧ Memory.read unlistedByte d s.k.toNat = some b ∧
        ∀ i, i ≠ s.k.toNat → Memory.read unlistedByte d i = Memory.read unlistedByte s.dbuf i)

/-- 41_reed_solomon R159: RS.ENC writes rsrem(DBUF[0..K-1], N) to REM[0..N-1], sets REMV, and leaves every other cell and field; it
raises E_RS_STATE without a generator or without data. -/
def Obligations.RsEncResult : Prop :=
  ∀ s : State, EncodedAs .rsEnc 0x24#8 .z0 ∧ (s.genv = false ∨ s.k = 0#8 → exec .rsEnc s = raised 6#4 s) ∧
    ∀ data, s.genv = true → s.k ≠ 0#8 → Memory.wf unlistedByte s.rem = true →
      readCells s.dbuf 0 s.k.toNat = some data → readCells s.gen 0 (s.n.toNat + 1) = some (genpoly s.n.toNat) →
      ∃ r, exec .rsEnc s = acked { s with rem := r, remv := true } ∧
        (∀ i, i < s.n.toNat → Memory.read unlistedByte r i = (rsrem data s.n.toNat)[i]?) ∧
        ∀ i, s.n.toNat ≤ i → Memory.read unlistedByte r i = Memory.read unlistedByte s.rem i

/-- 41_reed_solomon R160, R161, R162: RS.RDGEN, RS.RDREM and RS.RDDAT answer one cell, after the state check and the range check in
that order. -/
def Obligations.RsCellReads : Prop :=
  ∀ (b v : Byte) (s : State),
    (EncodedAs (.rsRdgen b) 0x25#8 .b ∧ EncodedAs (.rsRdrem b) 0x26#8 .b ∧ EncodedAs (.rsRddat b) 0x27#8 .b) ∧
    (s.genv = false → exec (.rsRdgen b) s = raised 6#4 s) ∧
    (s.genv = true → s.n.toNat < b.toNat → exec (.rsRdgen b) s = raised 2#4 s) ∧
    (s.genv = true → b.toNat ≤ s.n.toNat → Memory.read unlistedByte s.gen b.toNat = some v →
      exec (.rsRdgen b) s = responded (v.setWidth 32) s) ∧
    (s.remv = false → exec (.rsRdrem b) s = raised 6#4 s) ∧
    (s.remv = true → s.n.toNat ≤ b.toNat → exec (.rsRdrem b) s = raised 2#4 s) ∧
    (s.remv = true → b.toNat < s.n.toNat → Memory.read unlistedByte s.rem b.toNat = some v →
      exec (.rsRdrem b) s = responded (v.setWidth 32) s) ∧
    (s.k.toNat ≤ b.toNat → exec (.rsRddat b) s = raised 2#4 s) ∧
    (b.toNat < s.k.toNat → Memory.read unlistedByte s.dbuf b.toNat = some v →
      exec (.rsRddat b) s = responded (v.setWidth 32) s)

/-- 41_reed_solomon R163, 20_memory R66: RS.RDBIT answers bit 7 - (w mod 8) of codeword w div 8 of the final codeword string. -/
def Obligations.RsRdbitResult : Prop :=
  ∀ (w : Half) (s : State), EncodedAs (.rsRdbit w) 0x28#8 .w ∧
    (s.remv = false → exec (.rsRdbit w) s = raised 6#4 s) ∧
    (s.remv = true → 8 * (s.k.toNat + s.n.toNat) ≤ w.toNat → exec (.rsRdbit w) s = raised 2#4 s) ∧
    ∀ c, s.remv = true → w.toNat < 8 * (s.k.toNat + s.n.toNat) → codeword s (w.toNat / 8) = some c →
      exec (.rsRdbit w) s = responded (BitVec.ofNat 32 (c.toNat / 2 ^ (7 - w.toNat % 8) % 2)) s

/-- 41_reed_solomon R152: length, leading coefficient and constant term of genpoly(n), and one multiplication step in place. Above
n = 511 it rests on the model's choice of log entry 16. -/
def Obligations.GenpolyShape : Prop :=
  ∀ n : Nat, (genpoly n).length = n + 1 ∧ (genpoly n)[0]? = some 1#8 ∧
    (genpoly n)[n]? = some (gfexp (n * (n - 1) / 2 % 255)) ∧ gfexp (n * (n - 1) / 2 % 255) ≠ 0#8 ∧
    (∀ j, 1 ≤ j → j ≤ n → (genpoly (n + 1)).getD j 0#8 =
      (genpoly n).getD j 0#8 ^^^ gfmul ((genpoly n).getD (j - 1) 0#8) (gfexp n)) ∧
    (genpoly (n + 1)).getD (n + 1) 0#8 = gfmul ((genpoly n).getD n 0#8) (gfexp n)

/-- 41_reed_solomon R151, R152: the roots of genpoly(n) are exactly α^0, ..., α^(n-1). Above n = 512 it rests on the model's choice
of log entry 16. -/
def Obligations.GenpolyRoots : Prop :=
  ∀ (n : Nat) (x : Byte), polyEval (genpoly n) x = 0#8 ↔ ∃ i, i < n ∧ x = gfexp i

/-- 41_reed_solomon R150: polymul is the product of polynomials, so its value at a point is the product of the values, and its
length depends on the lengths alone. -/
def Obligations.PolymulIsProduct : Prop :=
  ∀ (p q : List Byte) (x : Byte), p ≠ [] → q ≠ [] →
    (polymul p q).length = p.length + q.length - 1 ∧
    polyEval (polymul p q) x = gfmul (polyEval p x) (polyEval q x)

/-- 41_reed_solomon R154 items 1 and 2: the remainder has length n, and data followed by it has the value 0 at every root of
genpoly(n). Above n = 512 it rests on the model's choice of log entry 16. -/
def Obligations.RemainderMakesCodeword : Prop :=
  ∀ (data : List Byte) (n : Nat), (rsrem data n).length = n ∧
    ∀ i, i < n → polyEval (data ++ rsrem data n) (gfexp i) = 0#8

/-- 41_reed_solomon R154 items 3 to 6: the remainder is linear in the data, leading zeros do not change it, the remainder of [1] is
the generator without its leading term, and n = 0 gives the empty list. Above n = 512 it rests on the model's choice of log entry 16. -/
def Obligations.RemainderIsLinear : Prop :=
  (∀ (d1 d2 : List Byte) (n : Nat), d1.length = d2.length →
    rsrem (List.zipWith (· ^^^ ·) d1 d2) n = List.zipWith (· ^^^ ·) (rsrem d1 n) (rsrem d2 n)) ∧
  (∀ (a : Byte) (d : List Byte) (n : Nat), rsrem (d.map (gfmul a)) n = (rsrem d n).map (gfmul a)) ∧
  (∀ (d : List Byte) (n : Nat), rsrem (0#8 :: d) n = rsrem d n) ∧
  (∀ n : Nat, rsrem [1#8] n = (genpoly n).tail) ∧ ∀ d : List Byte, rsrem d 0 = []

/-- 42_zigzag R216 and 41_reed_solomon R156, R159: while REM is valid, RS.GEN and RS.ENC write the values already there, and nothing
readable changes. -/
def Obligations.RecomputingChangesNothing : Prop :=
  ∀ s : State, Inv s → s.remv = true →
    (∃ g, exec .rsGen s = acked { s with gen := g } ∧
      ∀ i, Memory.read unlistedByte g i = Memory.read unlistedByte s.gen i) ∧
    ∃ r, exec .rsEnc s = acked { s with rem := r } ∧
      ∀ i, Memory.read unlistedByte r i = Memory.read unlistedByte s.rem i

/-! ## ZZ -/

/-- 42_zigzag R202: ZZ.SETVER sets the version, clears the plane inside the side, ends any traversal and answers SIZE; it leaves
every other cell and field. -/
def Obligations.ZzSetverResult : Prop :=
  ∀ (b : Byte) (s : State), EncodedAs (.zzSetver b) 0x30#8 .b ∧
    (b = 0#8 ∨ s.cfg.vMax < b.toNat → exec (.zzSetver b) s = raised 2#4 s) ∧
    (b ≠ 0#8 → b.toNat ≤ s.cfg.vMax → s.cfg.Valid →
      ∃ v f, exec (.zzSetver b) s = responded (BitVec.ofNat 32 (sideOfVersion b.toNat))
          { s with ver := v, fixed := f, zst := .idle, zmode := false, zp := 0#8, zt := 0#8, zh := false, zidx := 0#16 } ∧
        v.toNat = b.toNat ∧
        ∀ r c, c < 256 → Memory.read unlistedFixed f (planeIndex r c) =
          if r < sideOfVersion b.toNat ∧ c < sideOfVersion b.toNat then some 0#1
          else Memory.read unlistedFixed s.fixed (planeIndex r c))

/-- 42_zigzag R203: ZZ.FIX sets FIXED[a][b], aborts the traversal, and leaves every other cell and field. -/
def Obligations.ZzFixResult : Prop :=
  ∀ (a b : Byte) (s : State), EncodedAs (.zzFix a b) 0x31#8 .ab ∧
    (s.ver = 0#6 → exec (.zzFix a b) s = raised 7#4 s) ∧
    (s.ver ≠ 0#6 → (sideOfVersion s.ver.toNat ≤ a.toNat ∨ sideOfVersion s.ver.toNat ≤ b.toNat) →
      exec (.zzFix a b) s = raised 2#4 s) ∧
    (s.ver ≠ 0#6 → a.toNat < sideOfVersion s.ver.toNat → b.toNat < sideOfVersion s.ver.toNat →
      Memory.wf unlistedFixed s.fixed = true →
      ∃ f, exec (.zzFix a b) s = acked { s with fixed := f, zst := .idle } ∧
        ∀ r c, c < 256 → Memory.read unlistedFixed f (planeIndex r c) =
          if r = a.toNat ∧ c = b.toNat then some 1#1 else Memory.read unlistedFixed s.fixed (planeIndex r c))

/-- 42_zigzag R204: ZZ.START, its checks in order, the cursor at the first probe, ZST = RUN; it answers the count. -/
def Obligations.ZzStartResult : Prop :=
  ∀ (b : Byte) (s : State) (count : Nat), count = zzcount (sideOfVersion s.ver.toNat) (isFixed s) →
    EncodedAs (.zzStart b) 0x32#8 .b ∧
    exec (.zzStart b) s =
      if 1 < b.toNat then raised 2#4 s
      else if s.ver = 0#6 then raised 7#4 s
      else if b = 1#8 ∧ s.remv = false then raised 7#4 s
      else if b = 1#8 ∧ count < 8 * (s.k.toNat + s.n.toNat) then raised 8#4 s
      else responded (BitVec.ofNat 32 count)
        { s with zmode := decide (b = 1#8), zst := .run, zp := 0#8, zt := 0#8, zh := false, zidx := 0#16 }

/-- 42_zigzag R205, R206, R198: ZZ.NEXT raises in IDLE, answers done in DONE, and in RUN answers position ZIDX of the sequence with
its value and leaves the cursor on the probe after the emitted cell, or sets DONE with the cursor at the end and answers done when
the sequence is exhausted. -/
def Obligations.ZzNextFollowsSequence : Prop :=
  ∀ s : State, Inv s → EncodedAs .zzNext 0x33#8 .z0 ∧
    (s.zst = .idle → exec .zzNext s = raised 7#4 s) ∧
    (s.zst = .done → exec .zzNext s = responded 0x00020000#32 s) ∧
    (s.zst = .run → ∀ p, (zzseq (sideOfVersion s.ver.toNat) (isFixed s))[s.zidx.toNat]? = some p →
      ∃ (word : Word) (value : Bool) (zp zt : Byte) (zh : Bool) (zidx : BitVec 16),
        exec .zzNext s = responded word { s with zp := zp, zt := zt, zh := zh, zidx := zidx } ∧
        (∃ c ∈ probes (sideOfVersion s.ver.toNat), cellAt (sideOfVersion s.ver.toNat) c = p ∧
          c.advance (sideOfVersion s.ver.toNat) = { pair := zp.toNat, step := zt.toNat, left := zh }) ∧
        zidx.toNat = s.zidx.toNat + 1 ∧ word.toNat = 65536 * value.toNat + 256 * p.1 + p.2 ∧
        (s.zmode = true → s.zidx.toNat < 8 * (s.k.toNat + s.n.toNat) →
          ∃ c, codeword s (s.zidx.toNat / 8) = some c ∧ value = c.toNat.testBit (7 - s.zidx.toNat % 8)) ∧
        (s.zmode = false ∨ 8 * (s.k.toNat + s.n.toNat) ≤ s.zidx.toNat → value = false)) ∧
    (s.zst = .run → (zzseq (sideOfVersion s.ver.toNat) (isFixed s))[s.zidx.toNat]? = none →
      ∃ (zp zt : Byte) (zh : Bool),
        exec .zzNext s = responded 0x00020000#32 { s with zp := zp, zt := zt, zh := zh, zst := .done } ∧
        zp.toNat = (sideOfVersion s.ver.toNat - 1) / 2 ∧
        (s.zp.toNat = zp.toNat → zt = s.zt ∧ zh = s.zh) ∧ (s.zp.toNat ≠ zp.toNat → zt = 0#8 ∧ zh = false))

/-- 42_zigzag R208, R214: ZZ.COUNT answers zzcount and ZZ.RDFIX one cell of the plane; neither disturbs a traversal. -/
def Obligations.ZzCountAndRdfixResults : Prop :=
  ∀ (a b : Byte) (s : State), EncodedAs .zzCount 0x34#8 .z0 ∧ EncodedAs (.zzRdfix a b) 0x35#8 .ab ∧
    (s.ver = 0#6 → exec .zzCount s = raised 7#4 s ∧ exec (.zzRdfix a b) s = raised 7#4 s) ∧
    (s.ver ≠ 0#6 →
      exec .zzCount s = responded (BitVec.ofNat 32 (zzcount (sideOfVersion s.ver.toNat) (isFixed s))) s ∧
      exec (.zzRdfix a b) s =
        if sideOfVersion s.ver.toNat ≤ a.toNat ∨ sideOfVersion s.ver.toNat ≤ b.toNat then raised 2#4 s
        else responded (if Memory.read unlistedFixed s.fixed (planeIndex a.toNat b.toNat) = some 1#1 then 1#32 else 0#32) s)

/-- 42_zigzag R216: which operations abort a live or finished traversal, that the cursor and ZIDX keep their values (but after
ZZ.SETVER and reset, which set them to 0), and that the next ZZ.NEXT then raises E_ZZ_STATE. -/
def Obligations.AbortReturnsToIdle : Prop :=
  ∀ (i : Instr) (s t : State), s.err = 0#4 → exec i s = .next t → t.err = 0#4 → s.zst ≠ .idle →
    (t.zst = .idle ↔ Aborts s.zmode i) ∧
    (t.zst = .idle → i ≠ .sysReset → (∀ b, i ≠ .zzSetver b) →
      t.zp = s.zp ∧ t.zt = s.zt ∧ t.zh = s.zh ∧ t.zidx = s.zidx) ∧
    (t.zst = .idle → exec .zzNext t = raised 7#4 t)

/-- 42_zigzag R195, R194: every cell outside column 6 is probed exactly once and no cell of column 6 is; the sequence holds exactly
the writable ones, each once. -/
def Obligations.SequenceVisitsOnce : Prop :=
  ∀ (v : Nat) (fixed : Nat → Nat → Bool), 1 ≤ v →
    ((probes (sideOfVersion v)).map (cellAt (sideOfVersion v))).Nodup ∧
    (∀ r c, (r, c) ∈ (probes (sideOfVersion v)).map (cellAt (sideOfVersion v)) ↔
      r < sideOfVersion v ∧ c < sideOfVersion v ∧ c ≠ 6) ∧
    (zzseq (sideOfVersion v) fixed).Nodup ∧
    ∀ r c, (r, c) ∈ zzseq (sideOfVersion v) fixed ↔
      r < sideOfVersion v ∧ c < sideOfVersion v ∧ c ≠ 6 ∧ fixed r c = false

/-- 42_zigzag R196, R201: the length of the sequence is the number of writable cells outside column 6, at most S*(S-1), and fits
ZIDX's 16 bits. -/
def Obligations.SequenceLengthIsCount : Prop :=
  ∀ (v : Nat) (fixed : Nat → Nat → Bool), 1 ≤ v →
    (zzseq (sideOfVersion v) fixed).length = zzcount (sideOfVersion v) fixed ∧
    zzcount (sideOfVersion v) fixed ≤ sideOfVersion v * (sideOfVersion v - 1) ∧
    (v ≤ 59 → zzcount (sideOfVersion v) fixed < 65536)

/-- 42_zigzag R193, R210, R212: there are S*(S-1) probes; the cursor starts on the first, advancing goes from each to the next, and
from the last to the end. -/
def Obligations.AdvanceWalksProbes : Prop :=
  ∀ v : Nat, 1 ≤ v →
    (probes (sideOfVersion v)).length = sideOfVersion v * (sideOfVersion v - 1) ∧
    (probes (sideOfVersion v))[0]? = some { pair := 0, step := 0, left := false } ∧
    ∀ (m : Nat) (c : Cursor), (probes (sideOfVersion v))[m]? = some c →
      if m + 1 = sideOfVersion v * (sideOfVersion v - 1) then
        c.advance (sideOfVersion v) = { pair := (sideOfVersion v - 1) / 2, step := 0, left := false }
      else (probes (sideOfVersion v))[m + 1]? = some (c.advance (sideOfVersion v))

/-- 42_zigzag R191, R192: the pairs are (S-1, S-2), ..., (8, 7), then (5, 4), ..., (1, 0); even pairs go up, odd pairs down. -/
def Obligations.PairsSkipColumnSix : Prop :=
  ∀ v : Nat, 1 ≤ v →
    (∀ j, j < (sideOfVersion v - 1) / 2 → rightCol (sideOfVersion v) j =
      if 8 ≤ sideOfVersion v - 1 - 2 * j then sideOfVersion v - 1 - 2 * j else sideOfVersion v - 2 - 2 * j) ∧
    (∀ j t h, j < (sideOfVersion v - 1) / 2 → t < sideOfVersion v →
      cellAt (sideOfVersion v) { pair := j, step := t, left := h } = (rowAt (sideOfVersion v) j t, rightCol (sideOfVersion v) j - h.toNat)) ∧
    rightCol (sideOfVersion v) 0 = sideOfVersion v - 1 ∧
    rightCol (sideOfVersion v) ((sideOfVersion v - 1) / 2 - 1) = 1 ∧
    (∀ j, j + 1 < (sideOfVersion v - 1) / 2 → rightCol (sideOfVersion v) (j + 1) =
      if rightCol (sideOfVersion v) j = 8 then 5 else rightCol (sideOfVersion v) j - 2) ∧
    ∀ j t, j < (sideOfVersion v - 1) / 2 → t < sideOfVersion v →
      rowAt (sideOfVersion v) j t = if j % 2 = 0 then sideOfVersion v - 1 - t else t

/-! ## FMT -/

/-- 43_format_bch R240 with R230, R231: FMT.ENC, the level checked before the mask; the levels L, M, Q, H are the selectors 0 to 3
with codes 01, 00, 11, 10. -/
def Obligations.FmtEncResult : Prop :=
  ∀ (a b : Byte) (s : State), EncodedAs (.fmtEnc a b) 0x40#8 .ab ∧
    (3 < a.toNat → exec (.fmtEnc a b) s = raised 4#4 s) ∧
    (a.toNat ≤ 3 → 7 < b.toNat → exec (.fmtEnc a b) s = raised 2#4 s) ∧
    ∀ code, [0b01, 0b00, 0b11, 0b10][a.toNat]? = some code → b.toNat ≤ 7 →
      exec (.fmtEnc a b) s = responded (BitVec.ofNat 32 (fmtword (8 * code + b.toNat))) s

/-- 43_format_bch R241 with R233, R234: FMT.BCH answers bchrem(b), and bchrem(p) is the remainder of p(x)*x^10 on division by G15:
below 1024, linear, and p followed by it a multiple of G15; two unmasked words differ in at least 7 bits. -/
def Obligations.FmtBchResult : Prop :=
  (∀ (b : Byte) (s : State), EncodedAs (.fmtBch b) 0x41#8 .b ∧
    (31 < b.toNat → exec (.fmtBch b) s = raised 2#4 s) ∧
    (b.toNat ≤ 31 → exec (.fmtBch b) s = responded (BitVec.ofNat 32 (bchrem b.toNat)) s)) ∧
  bchrem 0 = 0 ∧ bchrem 1 = 0x137 ∧ bchrem 31 = 0x3FF ∧ (∀ p, p < 32 → bchrem p < 1024 ∧ ∃ q, q < 32 ∧ clmul 0x537 q = (p <<< 10) ||| bchrem p) ∧
  (∀ p, p < 32 → ∀ q, q < 32 → bchrem (p ^^^ q) = bchrem p ^^^ bchrem q) ∧
  ∀ p, p < 32 → ∀ q, q < 32 → p ≠ q → 7 ≤ weight15 (((p <<< 10) ||| bchrem p) ^^^ ((q <<< 10) ||| bchrem q))

/-- 43_format_bch R237: the payload of each level and mask, and the 32 remainders and the 32 format words, by payload. -/
def Obligations.FormatWordTable : Prop :=
  (List.range 4).map (fun a => (List.range 8).map fun m => (levelOf a).map fun l => payload l m) =
    [[8, 9, 10, 11, 12, 13, 14, 15].map some, [0, 1, 2, 3, 4, 5, 6, 7].map some] ++
    [[24, 25, 26, 27, 28, 29, 30, 31].map some, [16, 17, 18, 19, 20, 21, 22, 23].map some] ∧
  (List.range 32).map bchrem =
    [0x000, 0x137, 0x26E, 0x359, 0x1EB, 0x0DC, 0x385, 0x2B2, 0x3D6, 0x2E1, 0x1B8, 0x08F, 0x23D, 0x30A, 0x053, 0x164] ++
    [0x29B, 0x3AC, 0x0F5, 0x1C2, 0x370, 0x247, 0x11E, 0x029, 0x14D, 0x07A, 0x323, 0x214, 0x0A6, 0x191, 0x2C8, 0x3FF] ∧
  (List.range 32).map fmtword =
    [0x5412, 0x5125, 0x5E7C, 0x5B4B, 0x45F9, 0x40CE, 0x4F97, 0x4AA0, 0x77C4, 0x72F3, 0x7DAA, 0x789D, 0x662F, 0x6318,
     0x6C41, 0x6976] ++
    [0x1689, 0x13BE, 0x1CE7, 0x19D0, 0x0762, 0x0255, 0x0D0C, 0x083B, 0x355F, 0x3068, 0x3F31, 0x3A06, 0x24B4, 0x2183,
     0x2EDA, 0x2BED]

/-! ## Beyond the rules -/

/-- The model's choices of log entries 16 and 17, which no rule states: above index 511 `gfexp` goes on with the period 255 that
40_gf256 R122 gives the table, so it is 0 nowhere; the pairs, rows and cells of a traversal are computed by the formulas of
42_zigzag R191 to R193 for every side, pair and step, a difference below 0 being 0. -/
def Obligations.TotalBeyondRules : Prop :=
  (∀ i : Nat, gfexp i = gfexp (i % 255) ∧ gfexp i ≠ 0#8) ∧
  ∀ (side j t : Nat) (h : Bool),
    rightCol side j = (if 8 ≤ side - 1 - 2 * j then side - 1 - 2 * j else side - 2 - 2 * j) ∧
    rowAt side (2 * j) t = side - 1 - t ∧ rowAt side (2 * j + 1) t = t ∧
    cellAt side { pair := j, step := t, left := h } = (rowAt side j t, rightCol side j - h.toNat)
end

