-- ==== Sys2Proof/Laws/Decode.lean ====
section
/-!
SUPPORT. The fields of an encoded command, and the decoder as the three steps of 30_encoding R95.
-/

namespace Sys2Proof

/-- OPC of an encoded command is its opcode. -/
@[simp] theorem cmdOpc_encode (i : Instr) : cmdOpc (encode i) = opcOf i := by
  unfold cmdOpc encode
  ext j hj
  simp only [BitVec.getElem_extractLsb', BitVec.getLsbD_append]
  rw [if_neg (by omega)]
  simp [BitVec.getLsbD_eq_getElem hj]

/-- W of an encoded command is its operand bits. -/
@[simp] theorem cmdW_encode (i : Instr) : cmdW (encode i) = operandBits i := by
  unfold cmdW encode
  ext j hj
  simp only [BitVec.getElem_extractLsb', BitVec.getLsbD_append]
  rw [if_pos (by omega), if_pos (by omega)]
  simp [BitVec.getLsbD_eq_getElem hj]

/-- A of an encoded command is the upper byte of its operand bits. -/
@[simp] theorem cmdA_encode (i : Instr) : cmdA (encode i) = (operandBits i).extractLsb' 8 8 := by
  unfold cmdA encode
  ext j hj
  simp only [BitVec.getElem_extractLsb', BitVec.getLsbD_append]
  rw [if_pos (by omega), if_pos (by omega)]

/-- B of an encoded command is the lower byte of its operand bits. -/
@[simp] theorem cmdB_encode (i : Instr) : cmdB (encode i) = (operandBits i).extractLsb' 0 8 := by
  unfold cmdB encode
  ext j hj
  simp only [BitVec.getElem_extractLsb', BitVec.getLsbD_append]
  rw [if_pos (by omega), if_pos (by omega)]

/-- The lower byte of two bytes side by side. -/
@[simp] theorem extract_append_low (a b : Byte) : (a ++ b : BitVec 16).extractLsb' 0 8 = b := by
  ext j hj
  simp only [BitVec.getElem_extractLsb', BitVec.getLsbD_append]
  rw [if_pos (by omega)]
  simp [BitVec.getLsbD_eq_getElem hj]

/-- The upper byte of two bytes side by side. -/
@[simp] theorem extract_append_high (a b : Byte) : (a ++ b : BitVec 16).extractLsb' 8 8 = a := by
  ext j hj
  simp only [BitVec.getElem_extractLsb', BitVec.getLsbD_append]
  rw [if_neg (by omega)]
  simp [BitVec.getLsbD_eq_getElem hj]

/-- A word is legal exactly where its opcode is in the map and its format's must-be-zero bits are zero (R95). -/
theorem decode_eq_instr {cmd : Word} {i : Instr} : decode cmd = .instr i ↔
    ∃ f, lookupOpc (cmdOpc cmd) (cmdA cmd) (cmdB cmd) (cmdW cmd) = some (f, i) ∧ cmd &&& f.mustBeZero = 0#32 := by
  unfold decode
  split
  · next h => simp [h]
  · next f j h =>
    rw [h]
    by_cases hz : cmd &&& f.mustBeZero = 0#32
    · rw [if_pos hz]
      constructor
      · intro hj; cases hj; exact ⟨f, rfl, hz⟩
      · rintro ⟨f', hf, _⟩; cases hf; rfl
    · rw [if_neg hz]
      constructor
      · intro hj; cases hj
      · rintro ⟨f', hf, hz'⟩; cases hf; exact absurd hz' hz

/-- `decode?` is `decode` with the reason forgotten. -/
theorem decode?_eq_some {cmd : Word} {i : Instr} : decode? cmd = some i ↔ decode cmd = .instr i := by
  unfold decode?
  split
  · next j h => simp [h]
  · next why h => simp [h]

end Sys2Proof
end

