-- ==== Sys2Proof/Laws/State.lean ====
section
/-!
SUPPORT. One lemma per field of State per named update: what the field is after it. With them no later proof unfolds a record
update.
-/

namespace Sys2Proof.Machine

@[simp] theorem respondState_cfg (v : Word) (s : State) : (respondState v s).cfg = s.cfg := rfl
@[simp] theorem respondState_moves (v : Word) (s : State) : (respondState v s).moves = s.moves := rfl
@[simp] theorem respondState_rsp (v : Word) (s : State) : (respondState v s).rsp = some { err := 0#4, data := v } := rfl
@[simp] theorem respondState_err (v : Word) (s : State) : (respondState v s).err = s.err := rfl
@[simp] theorem respondState_res (v : Word) (s : State) : (respondState v s).res = v := rfl
@[simp] theorem respondState_k (v : Word) (s : State) : (respondState v s).k = s.k := rfl
@[simp] theorem respondState_dbuf (v : Word) (s : State) : (respondState v s).dbuf = s.dbuf := rfl
@[simp] theorem respondState_n (v : Word) (s : State) : (respondState v s).n = s.n := rfl
@[simp] theorem respondState_genv (v : Word) (s : State) : (respondState v s).genv = s.genv := rfl
@[simp] theorem respondState_gen (v : Word) (s : State) : (respondState v s).gen = s.gen := rfl
@[simp] theorem respondState_remv (v : Word) (s : State) : (respondState v s).remv = s.remv := rfl
@[simp] theorem respondState_rem (v : Word) (s : State) : (respondState v s).rem = s.rem := rfl
@[simp] theorem respondState_ver (v : Word) (s : State) : (respondState v s).ver = s.ver := rfl
@[simp] theorem respondState_fixed (v : Word) (s : State) : (respondState v s).fixed = s.fixed := rfl
@[simp] theorem respondState_zst (v : Word) (s : State) : (respondState v s).zst = s.zst := rfl
@[simp] theorem respondState_zmode (v : Word) (s : State) : (respondState v s).zmode = s.zmode := rfl
@[simp] theorem respondState_zp (v : Word) (s : State) : (respondState v s).zp = s.zp := rfl
@[simp] theorem respondState_zt (v : Word) (s : State) : (respondState v s).zt = s.zt := rfl
@[simp] theorem respondState_zh (v : Word) (s : State) : (respondState v s).zh = s.zh := rfl
@[simp] theorem respondState_zidx (v : Word) (s : State) : (respondState v s).zidx = s.zidx := rfl

@[simp] theorem ackState_cfg (s : State) : (ackState s).cfg = s.cfg := rfl
@[simp] theorem ackState_moves (s : State) : (ackState s).moves = s.moves := rfl
@[simp] theorem ackState_rsp (s : State) : (ackState s).rsp = some { err := 0#4, data := 0#32 } := rfl
@[simp] theorem ackState_err (s : State) : (ackState s).err = s.err := rfl
@[simp] theorem ackState_res (s : State) : (ackState s).res = s.res := rfl
@[simp] theorem ackState_k (s : State) : (ackState s).k = s.k := rfl
@[simp] theorem ackState_dbuf (s : State) : (ackState s).dbuf = s.dbuf := rfl
@[simp] theorem ackState_n (s : State) : (ackState s).n = s.n := rfl
@[simp] theorem ackState_genv (s : State) : (ackState s).genv = s.genv := rfl
@[simp] theorem ackState_gen (s : State) : (ackState s).gen = s.gen := rfl
@[simp] theorem ackState_remv (s : State) : (ackState s).remv = s.remv := rfl
@[simp] theorem ackState_rem (s : State) : (ackState s).rem = s.rem := rfl
@[simp] theorem ackState_ver (s : State) : (ackState s).ver = s.ver := rfl
@[simp] theorem ackState_fixed (s : State) : (ackState s).fixed = s.fixed := rfl
@[simp] theorem ackState_zst (s : State) : (ackState s).zst = s.zst := rfl
@[simp] theorem ackState_zmode (s : State) : (ackState s).zmode = s.zmode := rfl
@[simp] theorem ackState_zp (s : State) : (ackState s).zp = s.zp := rfl
@[simp] theorem ackState_zt (s : State) : (ackState s).zt = s.zt := rfl
@[simp] theorem ackState_zh (s : State) : (ackState s).zh = s.zh := rfl
@[simp] theorem ackState_zidx (s : State) : (ackState s).zidx = s.zidx := rfl

@[simp] theorem raiseState_cfg (e : ErrorCode) (s : State) : (raiseState e s).cfg = s.cfg := rfl
@[simp] theorem raiseState_moves (e : ErrorCode) (s : State) : (raiseState e s).moves = s.moves := rfl
@[simp] theorem raiseState_rsp (e : ErrorCode) (s : State) : (raiseState e s).rsp = some { err := e.code, data := 0#32 } := rfl
@[simp] theorem raiseState_err (e : ErrorCode) (s : State) : (raiseState e s).err = e.code := rfl
@[simp] theorem raiseState_res (e : ErrorCode) (s : State) : (raiseState e s).res = s.res := rfl
@[simp] theorem raiseState_k (e : ErrorCode) (s : State) : (raiseState e s).k = s.k := rfl
@[simp] theorem raiseState_dbuf (e : ErrorCode) (s : State) : (raiseState e s).dbuf = s.dbuf := rfl
@[simp] theorem raiseState_n (e : ErrorCode) (s : State) : (raiseState e s).n = s.n := rfl
@[simp] theorem raiseState_genv (e : ErrorCode) (s : State) : (raiseState e s).genv = s.genv := rfl
@[simp] theorem raiseState_gen (e : ErrorCode) (s : State) : (raiseState e s).gen = s.gen := rfl
@[simp] theorem raiseState_remv (e : ErrorCode) (s : State) : (raiseState e s).remv = s.remv := rfl
@[simp] theorem raiseState_rem (e : ErrorCode) (s : State) : (raiseState e s).rem = s.rem := rfl
@[simp] theorem raiseState_ver (e : ErrorCode) (s : State) : (raiseState e s).ver = s.ver := rfl
@[simp] theorem raiseState_fixed (e : ErrorCode) (s : State) : (raiseState e s).fixed = s.fixed := rfl
@[simp] theorem raiseState_zst (e : ErrorCode) (s : State) : (raiseState e s).zst = s.zst := rfl
@[simp] theorem raiseState_zmode (e : ErrorCode) (s : State) : (raiseState e s).zmode = s.zmode := rfl
@[simp] theorem raiseState_zp (e : ErrorCode) (s : State) : (raiseState e s).zp = s.zp := rfl
@[simp] theorem raiseState_zt (e : ErrorCode) (s : State) : (raiseState e s).zt = s.zt := rfl
@[simp] theorem raiseState_zh (e : ErrorCode) (s : State) : (raiseState e s).zh = s.zh := rfl
@[simp] theorem raiseState_zidx (e : ErrorCode) (s : State) : (raiseState e s).zidx = s.zidx := rfl

@[simp] theorem ignoredState_cfg (s : State) : (ignoredState s).cfg = s.cfg := rfl
@[simp] theorem ignoredState_moves (s : State) : (ignoredState s).moves = s.moves := rfl
@[simp] theorem ignoredState_rsp (s : State) : (ignoredState s).rsp = some { err := s.err, data := 0#32 } := rfl
@[simp] theorem ignoredState_err (s : State) : (ignoredState s).err = s.err := rfl
@[simp] theorem ignoredState_res (s : State) : (ignoredState s).res = s.res := rfl
@[simp] theorem ignoredState_k (s : State) : (ignoredState s).k = s.k := rfl
@[simp] theorem ignoredState_dbuf (s : State) : (ignoredState s).dbuf = s.dbuf := rfl
@[simp] theorem ignoredState_n (s : State) : (ignoredState s).n = s.n := rfl
@[simp] theorem ignoredState_genv (s : State) : (ignoredState s).genv = s.genv := rfl
@[simp] theorem ignoredState_gen (s : State) : (ignoredState s).gen = s.gen := rfl
@[simp] theorem ignoredState_remv (s : State) : (ignoredState s).remv = s.remv := rfl
@[simp] theorem ignoredState_rem (s : State) : (ignoredState s).rem = s.rem := rfl
@[simp] theorem ignoredState_ver (s : State) : (ignoredState s).ver = s.ver := rfl
@[simp] theorem ignoredState_fixed (s : State) : (ignoredState s).fixed = s.fixed := rfl
@[simp] theorem ignoredState_zst (s : State) : (ignoredState s).zst = s.zst := rfl
@[simp] theorem ignoredState_zmode (s : State) : (ignoredState s).zmode = s.zmode := rfl
@[simp] theorem ignoredState_zp (s : State) : (ignoredState s).zp = s.zp := rfl
@[simp] theorem ignoredState_zt (s : State) : (ignoredState s).zt = s.zt := rfl
@[simp] theorem ignoredState_zh (s : State) : (ignoredState s).zh = s.zh := rfl
@[simp] theorem ignoredState_zidx (s : State) : (ignoredState s).zidx = s.zidx := rfl

@[simp] theorem resetState_cfg (s : State) : (resetState s).cfg = s.cfg := rfl
@[simp] theorem resetState_moves (s : State) : (resetState s).moves = s.moves := rfl
@[simp] theorem resetState_rsp (s : State) : (resetState s).rsp = none := rfl
@[simp] theorem resetState_err (s : State) : (resetState s).err = 0#4 := rfl
@[simp] theorem resetState_res (s : State) : (resetState s).res = 0#32 := rfl
@[simp] theorem resetState_k (s : State) : (resetState s).k = 0#8 := rfl
@[simp] theorem resetState_dbuf (s : State) : (resetState s).dbuf = [] := rfl
@[simp] theorem resetState_n (s : State) : (resetState s).n = 0#8 := rfl
@[simp] theorem resetState_genv (s : State) : (resetState s).genv = false := rfl
@[simp] theorem resetState_gen (s : State) : (resetState s).gen = [] := rfl
@[simp] theorem resetState_remv (s : State) : (resetState s).remv = false := rfl
@[simp] theorem resetState_rem (s : State) : (resetState s).rem = [] := rfl
@[simp] theorem resetState_ver (s : State) : (resetState s).ver = 0#6 := rfl
@[simp] theorem resetState_fixed (s : State) : (resetState s).fixed = [] := rfl
@[simp] theorem resetState_zst (s : State) : (resetState s).zst = .idle := rfl
@[simp] theorem resetState_zmode (s : State) : (resetState s).zmode = false := rfl
@[simp] theorem resetState_zp (s : State) : (resetState s).zp = 0#8 := rfl
@[simp] theorem resetState_zt (s : State) : (resetState s).zt = 0#8 := rfl
@[simp] theorem resetState_zh (s : State) : (resetState s).zh = false := rfl
@[simp] theorem resetState_zidx (s : State) : (resetState s).zidx = 0#16 := rfl

@[simp] theorem abortPlace_cfg (s : State) : (abortPlace s).cfg = s.cfg := by
  unfold abortPlace; split <;> simp_all
@[simp] theorem abortPlace_moves (s : State) : (abortPlace s).moves = s.moves := by
  unfold abortPlace; split <;> simp_all
@[simp] theorem abortPlace_rsp (s : State) : (abortPlace s).rsp = s.rsp := by
  unfold abortPlace; split <;> simp_all
@[simp] theorem abortPlace_err (s : State) : (abortPlace s).err = s.err := by
  unfold abortPlace; split <;> simp_all
@[simp] theorem abortPlace_res (s : State) : (abortPlace s).res = s.res := by
  unfold abortPlace; split <;> simp_all
@[simp] theorem abortPlace_k (s : State) : (abortPlace s).k = s.k := by
  unfold abortPlace; split <;> simp_all
@[simp] theorem abortPlace_dbuf (s : State) : (abortPlace s).dbuf = s.dbuf := by
  unfold abortPlace; split <;> simp_all
@[simp] theorem abortPlace_n (s : State) : (abortPlace s).n = s.n := by
  unfold abortPlace; split <;> simp_all
@[simp] theorem abortPlace_genv (s : State) : (abortPlace s).genv = s.genv := by
  unfold abortPlace; split <;> simp_all
@[simp] theorem abortPlace_gen (s : State) : (abortPlace s).gen = s.gen := by
  unfold abortPlace; split <;> simp_all
@[simp] theorem abortPlace_remv (s : State) : (abortPlace s).remv = s.remv := by
  unfold abortPlace; split <;> simp_all
@[simp] theorem abortPlace_rem (s : State) : (abortPlace s).rem = s.rem := by
  unfold abortPlace; split <;> simp_all
@[simp] theorem abortPlace_ver (s : State) : (abortPlace s).ver = s.ver := by
  unfold abortPlace; split <;> simp_all
@[simp] theorem abortPlace_fixed (s : State) : (abortPlace s).fixed = s.fixed := by
  unfold abortPlace; split <;> simp_all
@[simp] theorem abortPlace_zst (s : State) : (abortPlace s).zst = if s.zmode then .idle else s.zst := by
  unfold abortPlace; split <;> simp_all
@[simp] theorem abortPlace_zmode (s : State) : (abortPlace s).zmode = s.zmode := by
  unfold abortPlace; split <;> simp_all
@[simp] theorem abortPlace_zp (s : State) : (abortPlace s).zp = s.zp := by
  unfold abortPlace; split <;> simp_all
@[simp] theorem abortPlace_zt (s : State) : (abortPlace s).zt = s.zt := by
  unfold abortPlace; split <;> simp_all
@[simp] theorem abortPlace_zh (s : State) : (abortPlace s).zh = s.zh := by
  unfold abortPlace; split <;> simp_all
@[simp] theorem abortPlace_zidx (s : State) : (abortPlace s).zidx = s.zidx := by
  unfold abortPlace; split <;> simp_all

@[simp] theorem dropRemainder_cfg (s : State) : (dropRemainder s).cfg = s.cfg := by
  unfold dropRemainder abortPlace; split <;> simp_all
@[simp] theorem dropRemainder_moves (s : State) : (dropRemainder s).moves = s.moves := by
  unfold dropRemainder abortPlace; split <;> simp_all
@[simp] theorem dropRemainder_rsp (s : State) : (dropRemainder s).rsp = s.rsp := by
  unfold dropRemainder abortPlace; split <;> simp_all
@[simp] theorem dropRemainder_err (s : State) : (dropRemainder s).err = s.err := by
  unfold dropRemainder abortPlace; split <;> simp_all
@[simp] theorem dropRemainder_res (s : State) : (dropRemainder s).res = s.res := by
  unfold dropRemainder abortPlace; split <;> simp_all
@[simp] theorem dropRemainder_k (s : State) : (dropRemainder s).k = s.k := by
  unfold dropRemainder abortPlace; split <;> simp_all
@[simp] theorem dropRemainder_dbuf (s : State) : (dropRemainder s).dbuf = s.dbuf := by
  unfold dropRemainder abortPlace; split <;> simp_all
@[simp] theorem dropRemainder_n (s : State) : (dropRemainder s).n = s.n := by
  unfold dropRemainder abortPlace; split <;> simp_all
@[simp] theorem dropRemainder_genv (s : State) : (dropRemainder s).genv = s.genv := by
  unfold dropRemainder abortPlace; split <;> simp_all
@[simp] theorem dropRemainder_gen (s : State) : (dropRemainder s).gen = s.gen := by
  unfold dropRemainder abortPlace; split <;> simp_all
@[simp] theorem dropRemainder_remv (s : State) : (dropRemainder s).remv = false := by
  unfold dropRemainder abortPlace; split <;> simp_all
@[simp] theorem dropRemainder_rem (s : State) : (dropRemainder s).rem = s.rem := by
  unfold dropRemainder abortPlace; split <;> simp_all
@[simp] theorem dropRemainder_ver (s : State) : (dropRemainder s).ver = s.ver := by
  unfold dropRemainder abortPlace; split <;> simp_all
@[simp] theorem dropRemainder_fixed (s : State) : (dropRemainder s).fixed = s.fixed := by
  unfold dropRemainder abortPlace; split <;> simp_all
@[simp] theorem dropRemainder_zst (s : State) : (dropRemainder s).zst = if s.zmode then .idle else s.zst := by
  unfold dropRemainder abortPlace; split <;> simp_all
@[simp] theorem dropRemainder_zmode (s : State) : (dropRemainder s).zmode = s.zmode := by
  unfold dropRemainder abortPlace; split <;> simp_all
@[simp] theorem dropRemainder_zp (s : State) : (dropRemainder s).zp = s.zp := by
  unfold dropRemainder abortPlace; split <;> simp_all
@[simp] theorem dropRemainder_zt (s : State) : (dropRemainder s).zt = s.zt := by
  unfold dropRemainder abortPlace; split <;> simp_all
@[simp] theorem dropRemainder_zh (s : State) : (dropRemainder s).zh = s.zh := by
  unfold dropRemainder abortPlace; split <;> simp_all
@[simp] theorem dropRemainder_zidx (s : State) : (dropRemainder s).zidx = s.zidx := by
  unfold dropRemainder abortPlace; split <;> simp_all

@[simp] theorem rewind_cfg (s : State) : (rewind s).cfg = s.cfg := rfl
@[simp] theorem rewind_moves (s : State) : (rewind s).moves = s.moves := rfl
@[simp] theorem rewind_rsp (s : State) : (rewind s).rsp = s.rsp := rfl
@[simp] theorem rewind_err (s : State) : (rewind s).err = s.err := rfl
@[simp] theorem rewind_res (s : State) : (rewind s).res = s.res := rfl
@[simp] theorem rewind_k (s : State) : (rewind s).k = s.k := rfl
@[simp] theorem rewind_dbuf (s : State) : (rewind s).dbuf = s.dbuf := rfl
@[simp] theorem rewind_n (s : State) : (rewind s).n = s.n := rfl
@[simp] theorem rewind_genv (s : State) : (rewind s).genv = s.genv := rfl
@[simp] theorem rewind_gen (s : State) : (rewind s).gen = s.gen := rfl
@[simp] theorem rewind_remv (s : State) : (rewind s).remv = s.remv := rfl
@[simp] theorem rewind_rem (s : State) : (rewind s).rem = s.rem := rfl
@[simp] theorem rewind_ver (s : State) : (rewind s).ver = s.ver := rfl
@[simp] theorem rewind_fixed (s : State) : (rewind s).fixed = s.fixed := rfl
@[simp] theorem rewind_zst (s : State) : (rewind s).zst = s.zst := rfl
@[simp] theorem rewind_zmode (s : State) : (rewind s).zmode = s.zmode := rfl
@[simp] theorem rewind_zp (s : State) : (rewind s).zp = 0#8 := rfl
@[simp] theorem rewind_zt (s : State) : (rewind s).zt = 0#8 := rfl
@[simp] theorem rewind_zh (s : State) : (rewind s).zh = false := rfl
@[simp] theorem rewind_zidx (s : State) : (rewind s).zidx = 0#16 := rfl

@[simp] theorem setCursor_cfg (c : Cursor) (s : State) : (setCursor c s).cfg = s.cfg := rfl
@[simp] theorem setCursor_moves (c : Cursor) (s : State) : (setCursor c s).moves = s.moves := rfl
@[simp] theorem setCursor_rsp (c : Cursor) (s : State) : (setCursor c s).rsp = s.rsp := rfl
@[simp] theorem setCursor_err (c : Cursor) (s : State) : (setCursor c s).err = s.err := rfl
@[simp] theorem setCursor_res (c : Cursor) (s : State) : (setCursor c s).res = s.res := rfl
@[simp] theorem setCursor_k (c : Cursor) (s : State) : (setCursor c s).k = s.k := rfl
@[simp] theorem setCursor_dbuf (c : Cursor) (s : State) : (setCursor c s).dbuf = s.dbuf := rfl
@[simp] theorem setCursor_n (c : Cursor) (s : State) : (setCursor c s).n = s.n := rfl
@[simp] theorem setCursor_genv (c : Cursor) (s : State) : (setCursor c s).genv = s.genv := rfl
@[simp] theorem setCursor_gen (c : Cursor) (s : State) : (setCursor c s).gen = s.gen := rfl
@[simp] theorem setCursor_remv (c : Cursor) (s : State) : (setCursor c s).remv = s.remv := rfl
@[simp] theorem setCursor_rem (c : Cursor) (s : State) : (setCursor c s).rem = s.rem := rfl
@[simp] theorem setCursor_ver (c : Cursor) (s : State) : (setCursor c s).ver = s.ver := rfl
@[simp] theorem setCursor_fixed (c : Cursor) (s : State) : (setCursor c s).fixed = s.fixed := rfl
@[simp] theorem setCursor_zst (c : Cursor) (s : State) : (setCursor c s).zst = s.zst := rfl
@[simp] theorem setCursor_zmode (c : Cursor) (s : State) : (setCursor c s).zmode = s.zmode := rfl
@[simp] theorem setCursor_zp (c : Cursor) (s : State) : (setCursor c s).zp = BitVec.ofNat 8 c.pair := rfl
@[simp] theorem setCursor_zt (c : Cursor) (s : State) : (setCursor c s).zt = BitVec.ofNat 8 c.step := rfl
@[simp] theorem setCursor_zh (c : Cursor) (s : State) : (setCursor c s).zh = c.left := rfl
@[simp] theorem setCursor_zidx (c : Cursor) (s : State) : (setCursor c s).zidx = s.zidx := rfl

/-- `dropRemainder` as one record update: REMV cleared, ZST as the abort rule leaves it (42_zigzag R216). -/
theorem dropRemainder_eq (s : State) :
    dropRemainder s = { s with remv := false, zst := if s.zmode then .idle else s.zst } := by
  unfold dropRemainder abortPlace; split <;> simp_all

end Sys2Proof.Machine
end

