-- ==== Sys2Proof/Laws/Meanings.lean ====
section
/-!
SUPPORT. What each operation can do, said once: if its meaning answers a next state, then one of these cases holds. A proof
over the operations cites these and unfolds no meaning.
-/

namespace Sys2Proof.Machine

variable {s t : State}

/-! ## How an operation ends -/

@[simp] theorem respond_eq_next {v : Word} : respond v s = .next t ↔ t = respondState v s := by
  simp [respond, eq_comm]

@[simp] theorem ack_eq_next : ack s = .next t ↔ t = ackState s := by simp [ack, eq_comm]

@[simp] theorem raise_eq_next {e : ErrorCode} : raise e s = .next t ↔ t = raiseState e s := by simp [raise, eq_comm]

@[simp] theorem respondCell_eq_next {space : Space} {v : Option Byte} :
    respondCell space v s = .next t ↔ ∃ b, v = some b ∧ t = respondState (b.setWidth 32) s := by
  cases v <;> simp [respondCell]

/-- No error has code 0 (60_exceptions R270). -/
@[simp] theorem ErrorCode.code_ne_zero (e : ErrorCode) : e.code ≠ 0#4 := by cases e <;> decide

/-- Different errors have different codes (60_exceptions R270). -/
theorem ErrorCode.code_inj {e f : ErrorCode} (h : e.code = f.code) : e = f := by
  cases e <;> cases f <;> first | rfl | exact absurd h (by decide)

/-- No error has a code above 8 (60_exceptions R270). -/
theorem ErrorCode.code_le (e : ErrorCode) : e.code.toNat ≤ 8 := by cases e <;> decide

/-- A response is presented after every operation that ends. -/
theorem rspValid_after : rspValid (ackState s) = true ∧ (∀ v, rspValid (respondState v s) = true) ∧
    ∀ e, rspValid (raiseState e s) = true := ⟨rfl, fun _ => rfl, fun _ => rfl⟩

/-- The err output is 1 after a raise and in an ignored command's error state (10_state R46). -/
theorem errPin_raiseState (e : ErrorCode) : errPin (raiseState e s) = true := by
  simp [errPin]

/-! ## SYS -/

theorem execSysNop_cases (h : execSysNop s = .next t) : t = ackState s := by
  simpa [execSysNop] using h

theorem execSysReset_cases (h : execSysReset s = .next t) : t = ackState (resetState s) := by
  simpa [execSysReset] using h

/-- The registers 0 to 9 exist and no other does (10_state R25). -/
theorem regs_isSome_iff (b : Byte) : (regs s b).isSome = true ↔ b.toNat ≤ 9 := by
  unfold regs
  split <;> simp_all
  all_goals omega

theorem execSysRdreg_cases {b : Byte} (h : execSysRdreg b s = .next t) :
    (9 < b.toNat ∧ t = raiseState .range s) ∨ ∃ v, regs s b = some v ∧ t = respondState v s := by
  unfold execSysRdreg at h
  split at h
  · next v hv => exact .inr ⟨v, hv, by simpa using h⟩
  · next hv =>
    refine .inl ⟨?_, by simpa using h⟩
    have := (regs_isSome_iff (s := s) b).not.mp (by simp [hv])
    omega

/-! ## GF -/

theorem execGfAdd_cases {a b : Byte} (h : execGfAdd a b s = .next t) :
    t = respondState ((gfadd a b).setWidth 32) s := by simpa [execGfAdd] using h

theorem execGfMul_cases {a b : Byte} (h : execGfMul a b s = .next t) :
    t = respondState ((gfmul a b).setWidth 32) s := by simpa [execGfMul] using h

theorem execGfExp_cases {w : Half} (h : execGfExp w s = .next t) :
    (511 < w.toNat ∧ t = raiseState .range s) ∨
      (w.toNat ≤ 511 ∧ t = respondState ((gfexp w.toNat).setWidth 32) s) := by
  unfold execGfExp at h
  split at h
  · next hw => exact .inl ⟨hw, by simpa using h⟩
  · next hw => exact .inr ⟨by omega, by simpa using h⟩

theorem execGfLog_cases {b : Byte} (h : execGfLog b s = .next t) :
    (gflog b = none ∧ t = raiseState .logZero s) ∨
      ∃ i, gflog b = some i ∧ t = respondState (BitVec.ofNat 32 i) s := by
  unfold execGfLog at h
  split at h
  · next i hi => exact .inr ⟨i, hi, by simpa using h⟩
  · next hi => exact .inl ⟨hi, by simpa using h⟩

theorem execGfPow_cases {a b : Byte} (h : execGfPow a b s = .next t) :
    t = respondState ((gfpow a b.toNat).setWidth 32) s := by simpa [execGfPow] using h

/-! ## RS -/

theorem execRsSetn_cases {b : Byte} (h : execRsSetn b s = .next t) :
    ((b = 0#8 ∨ s.cfg.nMax < b.toNat) ∧ t = raiseState .range s) ∨
      (b ≠ 0#8 ∧ b.toNat ≤ s.cfg.nMax ∧ t = ackState (dropRemainder { s with n := b, genv := false })) := by
  unfold execRsSetn at h
  split at h
  · next hb => exact .inl ⟨hb, by simpa using h⟩
  · next hb =>
    obtain ⟨h1, h2⟩ := not_or.mp hb
    exact .inr ⟨h1, by omega, by simpa using h⟩

theorem execRsGen_cases (h : execRsGen s = .next t) :
    (s.n = 0#8 ∧ t = raiseState .rsState s) ∨
      (s.n ≠ 0#8 ∧ t = ackState { s with gen := writeCells s.gen 0 (genpoly s.n.toNat), genv := true }) := by
  unfold execRsGen at h
  split at h
  · next hn => exact .inl ⟨hn, by simpa using h⟩
  · next hn => exact .inr ⟨hn, by simpa using h⟩

theorem execRsClr_cases (h : execRsClr s = .next t) : t = ackState (dropRemainder { s with k := 0#8 }) := by
  simpa [execRsClr] using h

theorem execRsPush_cases {b : Byte} (h : execRsPush b s = .next t) :
    (s.k.toNat = s.cfg.kMax ∧ t = raiseState .rsFull s) ∨
      (s.k.toNat ≠ s.cfg.kMax ∧ t = ackState (dropRemainder
        { s with dbuf := Memory.write unlistedByte s.dbuf s.k.toNat b, k := s.k + 1#8 })) := by
  unfold execRsPush at h
  split at h
  · next hk => exact .inl ⟨hk, by simpa using h⟩
  · next hk => exact .inr ⟨hk, by simpa using h⟩

theorem execRsEnc_cases (h : execRsEnc s = .next t) :
    ((s.genv = false ∨ s.k = 0#8) ∧ t = raiseState .rsState s) ∨
      (s.genv = true ∧ s.k ≠ 0#8 ∧ ∃ data g, readCells s.dbuf 0 s.k.toNat = some data ∧
        readCells s.gen 0 (s.n.toNat + 1) = some g ∧
        t = ackState { s with rem := writeCells s.rem 0 (rsremBy g data s.n.toNat), remv := true }) := by
  unfold execRsEnc at h
  split at h
  · next hg => exact .inl ⟨.inl hg, by simpa using h⟩
  · next hg =>
    split at h
    · next hk => exact .inl ⟨.inr hk, by simpa using h⟩
    · next hk =>
      split at h
      · next data g hd hgn => exact .inr ⟨by simpa using hg, hk, data, g, hd, hgn, by simpa using h⟩
      · simp at h
      · simp at h

theorem execRsRdgen_cases {b : Byte} (h : execRsRdgen b s = .next t) :
    (s.genv = false ∧ t = raiseState .rsState s) ∨
      (s.genv = true ∧ s.n.toNat < b.toNat ∧ t = raiseState .range s) ∨
      (s.genv = true ∧ b.toNat ≤ s.n.toNat ∧ ∃ v, Memory.read unlistedByte s.gen b.toNat = some v ∧
        t = respondState (v.setWidth 32) s) := by
  unfold execRsRdgen at h
  split at h
  · next hg => exact .inl ⟨hg, by simpa using h⟩
  · next hg =>
    split at h
    · next hb => exact .inr (.inl ⟨by simpa using hg, hb, by simpa using h⟩)
    · next hb => exact .inr (.inr ⟨by simpa using hg, by omega, by simpa using h⟩)

theorem execRsRdrem_cases {b : Byte} (h : execRsRdrem b s = .next t) :
    (s.remv = false ∧ t = raiseState .rsState s) ∨
      (s.remv = true ∧ s.n.toNat ≤ b.toNat ∧ t = raiseState .range s) ∨
      (s.remv = true ∧ b.toNat < s.n.toNat ∧ ∃ v, Memory.read unlistedByte s.rem b.toNat = some v ∧
        t = respondState (v.setWidth 32) s) := by
  unfold execRsRdrem at h
  split at h
  · next hg => exact .inl ⟨hg, by simpa using h⟩
  · next hg =>
    split at h
    · next hb => exact .inr (.inl ⟨by simpa using hg, hb, by simpa using h⟩)
    · next hb => exact .inr (.inr ⟨by simpa using hg, by omega, by simpa using h⟩)

theorem execRsRddat_cases {b : Byte} (h : execRsRddat b s = .next t) :
    (s.k.toNat ≤ b.toNat ∧ t = raiseState .range s) ∨
      (b.toNat < s.k.toNat ∧ ∃ v, Memory.read unlistedByte s.dbuf b.toNat = some v ∧
        t = respondState (v.setWidth 32) s) := by
  unfold execRsRddat at h
  split at h
  · next hb => exact .inl ⟨hb, by simpa using h⟩
  · next hb => exact .inr ⟨by omega, by simpa using h⟩

theorem execRsRdbit_cases {w : Half} (h : execRsRdbit w s = .next t) :
    (s.remv = false ∧ t = raiseState .rsState s) ∨
      (s.remv = true ∧ bitLength s ≤ w.toNat ∧ t = raiseState .range s) ∨
      (s.remv = true ∧ w.toNat < bitLength s ∧ ∃ v, fbit s w.toNat = some v ∧
        t = respondState ((BitVec.ofBool v).setWidth 32) s) := by
  unfold execRsRdbit at h
  split at h
  · next hg => exact .inl ⟨hg, by simpa using h⟩
  · next hg =>
    split at h
    · next hb => exact .inr (.inl ⟨by simpa using hg, hb, by simpa using h⟩)
    · next hb =>
      split at h
      · next v hv => exact .inr (.inr ⟨by simpa using hg, by omega, v, hv, by simpa using h⟩)
      · simp at h

/-! ## ZZ -/

theorem execZzSetver_cases {b : Byte} (h : execZzSetver b s = .next t) :
    ((b = 0#8 ∨ s.cfg.vMax < b.toNat) ∧ t = raiseState .range s) ∨
      (b ≠ 0#8 ∧ b.toNat ≤ s.cfg.vMax ∧ t = respondState (BitVec.ofNat 32 (size b.toNat))
        (rewind { s with ver := b.setWidth 6, fixed := clearPlane s.fixed (size b.toNat), zst := .idle,
                         zmode := false })) := by
  unfold execZzSetver at h
  split at h
  · next hb => exact .inl ⟨hb, by simpa using h⟩
  · next hb =>
    obtain ⟨h1, h2⟩ := not_or.mp hb
    exact .inr ⟨h1, by omega, by simpa using h⟩

theorem execZzFix_cases {a b : Byte} (h : execZzFix a b s = .next t) :
    (s.ver = 0#6 ∧ t = raiseState .zzState s) ∨
      (s.ver ≠ 0#6 ∧ (sideOf s ≤ a.toNat ∨ sideOf s ≤ b.toNat) ∧ t = raiseState .range s) ∨
      (s.ver ≠ 0#6 ∧ a.toNat < sideOf s ∧ b.toNat < sideOf s ∧
        t = ackState { s with fixed := fixCell s.fixed a.toNat b.toNat, zst := .idle }) := by
  unfold execZzFix at h
  split at h
  · next hv => exact .inl ⟨hv, by simpa using h⟩
  · next hv =>
    split at h
    · next hb => exact .inr (.inl ⟨hv, hb, by simpa using h⟩)
    · next hb =>
      obtain ⟨h1, h2⟩ := not_or.mp hb
      exact .inr (.inr ⟨hv, by omega, by omega, by simpa using h⟩)

theorem execZzStart_cases {b : Byte} (h : execZzStart b s = .next t) :
    (1 < b.toNat ∧ t = raiseState .range s) ∨
      (b.toNat ≤ 1 ∧ (s.ver = 0#6 ∨ b = 1#8 ∧ s.remv = false) ∧ t = raiseState .zzState s) ∨
      (s.ver ≠ 0#6 ∧ b = 1#8 ∧ s.remv = true ∧ countOf s < bitLength s ∧ t = raiseState .zzOverflow s) ∨
      (b.toNat ≤ 1 ∧ s.ver ≠ 0#6 ∧ (b = 1#8 → s.remv = true ∧ bitLength s ≤ countOf s) ∧
        t = respondState (BitVec.ofNat 32 (countOf s)) (rewind { s with zmode := b == 1#8, zst := .run })) := by
  unfold execZzStart at h
  split at h
  · next hb => exact .inl ⟨hb, by simpa using h⟩
  · next hb =>
    split at h
    · next hv => exact .inr (.inl ⟨by omega, .inl hv, by simpa using h⟩)
    · next hv =>
      split at h
      · next hr => exact .inr (.inl ⟨by omega, .inr hr, by simpa using h⟩)
      · next hr =>
        split at h
        · next ho =>
          refine .inr (.inr (.inl ⟨hv, ho.1, ?_, ho.2, by simpa using h⟩))
          simpa using fun hf => hr ⟨ho.1, hf⟩
        · next ho =>
          refine .inr (.inr (.inr ⟨by omega, hv, fun h1 => ⟨by simpa using fun hf => hr ⟨h1, hf⟩, ?_⟩, by simpa using h⟩))
          exact Nat.le_of_not_lt fun hlt => ho ⟨h1, hlt⟩

theorem execZzNext_cases (h : execZzNext s = .next t) :
    (s.zst = .idle ∧ t = raiseState .zzState s) ∨
      (s.zst = .done ∧ t = respondState doneWord s) ∨
      (s.zst = .run ∧ ∃ c, scan (sideOf s) (isFixed s) (scanFuel (sideOf s)) (cursorOf s) = .atEnd c ∧
        t = respondState doneWord { setCursor c s with zst := .done }) ∨
      (s.zst = .run ∧ ∃ p c v, scan (sideOf s) (isFixed s) (scanFuel (sideOf s)) (cursorOf s) = .found p c ∧
        placeValue s = some v ∧
        t = respondState (positionWord v p.1 p.2) { setCursor c s with zidx := s.zidx + 1#16 }) := by
  unfold execZzNext at h
  split at h
  · next hz => exact .inl ⟨hz, by simpa using h⟩
  · next hz => exact .inr (.inl ⟨hz, by simpa using h⟩)
  · next hz =>
    split at h
    · next c hc => exact .inr (.inr (.inl ⟨hz, c, hc, by simpa using h⟩))
    · next p c hc =>
      split at h
      · next v hv => exact .inr (.inr (.inr ⟨hz, p, c, v, hc, hv, by simpa using h⟩))
      · simp at h
    · simp at h

theorem execZzCount_cases (h : execZzCount s = .next t) :
    (s.ver = 0#6 ∧ t = raiseState .zzState s) ∨
      (s.ver ≠ 0#6 ∧ t = respondState (BitVec.ofNat 32 (countOf s)) s) := by
  unfold execZzCount at h
  split at h
  · next hv => exact .inl ⟨hv, by simpa using h⟩
  · next hv => exact .inr ⟨hv, by simpa using h⟩

theorem execZzRdfix_cases {a b : Byte} (h : execZzRdfix a b s = .next t) :
    (s.ver = 0#6 ∧ t = raiseState .zzState s) ∨
      (s.ver ≠ 0#6 ∧ (sideOf s ≤ a.toNat ∨ sideOf s ≤ b.toNat) ∧ t = raiseState .range s) ∨
      (s.ver ≠ 0#6 ∧ a.toNat < sideOf s ∧ b.toNat < sideOf s ∧
        t = respondState ((BitVec.ofBool (isFixed s a.toNat b.toNat)).setWidth 32) s) := by
  unfold execZzRdfix at h
  split at h
  · next hv => exact .inl ⟨hv, by simpa using h⟩
  · next hv =>
    split at h
    · next hb => exact .inr (.inl ⟨hv, hb, by simpa using h⟩)
    · next hb =>
      obtain ⟨h1, h2⟩ := not_or.mp hb
      exact .inr (.inr ⟨hv, by omega, by omega, by simpa using h⟩)

/-! ## FMT -/

theorem execFmtEnc_cases {a b : Byte} (h : execFmtEnc a b s = .next t) :
    (levelOf a.toNat = none ∧ t = raiseState .eccLevel s) ∨
      ∃ l, levelOf a.toNat = some l ∧
        ((7 < b.toNat ∧ t = raiseState .range s) ∨
          (b.toNat ≤ 7 ∧ t = respondState (BitVec.ofNat 32 (fmtword (payload l b.toNat))) s)) := by
  unfold execFmtEnc at h
  split at h
  · next hl => exact .inl ⟨hl, by simpa using h⟩
  · next l hl =>
    refine .inr ⟨l, hl, ?_⟩
    split at h
    · next hb => exact .inl ⟨hb, by simpa using h⟩
    · next hb => exact .inr ⟨by omega, by simpa using h⟩

theorem execFmtBch_cases {b : Byte} (h : execFmtBch b s = .next t) :
    (31 < b.toNat ∧ t = raiseState .range s) ∨
      (b.toNat ≤ 31 ∧ t = respondState (BitVec.ofNat 32 (bchrem b.toNat)) s) := by
  unfold execFmtBch at h
  split at h
  · next hb => exact .inl ⟨hb, by simpa using h⟩
  · next hb => exact .inr ⟨by omega, by simpa using h⟩

/-! ## A command and a move -/

/-- What a command can do (44_system R255): it is ignored, it is illegal, or its operation runs. -/
theorem transact_cases {cmd : Word} (h : transact cmd s = .next t) :
    (s.err ≠ 0#4 ∧ decode cmd ≠ .instr .sysReset ∧ t = ignoredState s) ∨
      (s.err = 0#4 ∧ (∃ why, decode cmd = .illegal why) ∧ t = raiseState .illegal s) ∨
      ∃ i, decode cmd = .instr i ∧ (s.err = 0#4 ∨ i = .sysReset) ∧ exec i s = .next t := by
  unfold transact at h
  split at h
  · next i hi =>
    split at h
    · next he => exact .inl ⟨he.1, by simpa [hi] using he.2, by simpa [eq_comm] using h⟩
    · next he => exact .inr (.inr ⟨i, hi, by tauto, h⟩)
  · next why hi =>
    split at h
    · next he => exact .inl ⟨he, by simp [hi], by simpa [eq_comm] using h⟩
    · next he => exact .inr (.inl ⟨by simpa using he, ⟨why, hi⟩, by simpa using h⟩)

/-- What a step can do: no move, rst, a command, or taking the response (10_state R48). -/
theorem step_cases (h : step s = .next t) :
    (s.moves = [] ∧ t = s) ∨
      (∃ ms, s.moves = .rst :: ms ∧ t = resetState { s with moves := ms }) ∨
      (∃ cmd ms, s.moves = .issue cmd :: ms ∧ transact cmd { s with moves := ms } = .next t) ∨
      ∃ ms, s.moves = .take :: ms ∧ t = { s with moves := ms, rsp := none } := by
  unfold step serve at h
  split at h
  · next hm => exact .inl ⟨hm, by simpa [eq_comm] using h⟩
  · next ms hm => exact .inr (.inl ⟨ms, hm, by simpa [eq_comm] using h⟩)
  · next cmd ms hm => exact .inr (.inr (.inl ⟨cmd, ms, hm, h⟩))
  · next ms hm => exact .inr (.inr (.inr ⟨ms, hm, by simpa [eq_comm] using h⟩))

end Sys2Proof.Machine
end

