-- ==== Sys2Proof/Laws/Memory.lean ====
section
/-!
SUPPORT. The laws of the index spaces: a read after a write, every write keeps the canonical form and the bounds, and what the
bulk reads, the bulk writes and the clearing of the plane do.
-/

namespace Sys2Proof.Machine

variable {w : Nat} {u : Option (BitVec w)}

@[simp] theorem Memory.read_nil (a : Nat) : Memory.read u ([] : Memory w) a = u := rfl

@[simp] theorem Memory.wf_nil : Memory.wf u ([] : Memory w) = true := rfl

/-- The canonical form of a longer list: its first entry is listed by right and lies below the others. -/
theorem Memory.wf_cons {a : Nat} {v : BitVec w} {m : Memory w} :
    Memory.wf u ((a, v) :: m) = true ↔ u ≠ some v ∧ (∀ c ∈ m, a < c.1) ∧ Memory.wf u m = true := by
  simp [Memory.wf, List.all_eq_true, and_assoc]

/-- A cell below every listed index holds what an unlisted cell holds. -/
theorem Memory.read_of_lt {m : Memory w} {a : Nat} (h : ∀ c ∈ m, a < c.1) : Memory.read u m a = u := by
  induction m with
  | nil => rfl
  | cons e m ih =>
    obtain ⟨b, v⟩ := e
    have hb : a < b := h (b, v) (by simp)
    rw [Memory.read, if_neg (by omega)]
    exact ih fun c hc => h c (by simp [hc])

/-- What a write lists: the cell written, or what was listed before. -/
theorem Memory.mem_write {m : Memory w} {a : Nat} {v : BitVec w} {c : Nat × BitVec w} (h : c ∈ Memory.write u m a v) :
    c = (a, v) ∨ c ∈ m := by
  induction m with
  | nil => simp only [Memory.write] at h; split at h <;> simp_all
  | cons e m ih =>
    simp only [Memory.write] at h
    split at h <;> split at h <;> try (split at h)
    all_goals simp only [List.mem_cons] at h ⊢
    all_goals tauto

/-- Writing keeps a lower bound on the listed indices. -/
theorem Memory.write_lower {m : Memory w} {a b : Nat} {v : BitVec w} (hb : b < a) (h : ∀ c ∈ m, b < c.1) :
    ∀ c ∈ Memory.write u m a v, b < c.1 := fun c hc => by
  rcases Memory.mem_write hc with rfl | hc
  · exact hb
  · exact h c hc

/-- Every write keeps the canonical form. -/
theorem Memory.write_wf {m : Memory w} (a : Nat) (v : BitVec w) (h : Memory.wf u m = true) :
    Memory.wf u (Memory.write u m a v) = true := by
  induction m with
  | nil =>
    simp only [Memory.write]
    split
    · rfl
    · next hv => exact Memory.wf_cons.mpr ⟨hv, by simp, rfl⟩
  | cons e m ih =>
    obtain ⟨b, v'⟩ := e
    obtain ⟨hv', hlow, hm⟩ := Memory.wf_cons.mp h
    simp only [Memory.write]
    split
    · next hab =>
      split
      · exact h
      · next hv =>
        refine Memory.wf_cons.mpr ⟨hv, ?_, h⟩
        intro c hc
        rcases List.mem_cons.mp hc with rfl | hc
        · exact hab
        · exact Nat.lt_trans hab (hlow c hc)
    · next hab =>
      split
      · next heq =>
        split
        · exact hm
        · next hv => exact Memory.wf_cons.mpr ⟨hv, by rw [heq]; exact hlow, hm⟩
      · next hne => exact Memory.wf_cons.mpr ⟨hv', Memory.write_lower (by omega) hlow, ih hm⟩

/-- A read after a write to the same place gives the value written. -/
theorem Memory.read_write_same {m : Memory w} (a : Nat) (v : BitVec w) (h : Memory.wf u m = true) :
    Memory.read u (Memory.write u m a v) a = some v := by
  induction m with
  | nil => simp only [Memory.write]; split <;> simp_all [Memory.read]
  | cons e m ih =>
    obtain ⟨b, v'⟩ := e
    obtain ⟨_, hlow, hm⟩ := Memory.wf_cons.mp h
    simp only [Memory.write]
    split
    · next hab =>
      split
      · next hv =>
        rw [Memory.read_of_lt, hv]
        intro c hc
        rcases List.mem_cons.mp hc with rfl | hc
        · exact hab
        · exact Nat.lt_trans hab (hlow c hc)
      · simp [Memory.read]
    · next hab =>
      split
      · next heq =>
        split
        · next hv => rw [Memory.read_of_lt (by rw [heq]; exact hlow), hv]
        · simp [Memory.read]
      · next hne => simp [Memory.read, hne, ih hm]

/-- A write leaves every other place alone. -/
theorem Memory.read_write_other {m : Memory w} {a b : Nat} (v : BitVec w) (hab : b ≠ a) :
    Memory.read u (Memory.write u m a v) b = Memory.read u m b := by
  induction m with
  | nil => simp only [Memory.write]; split <;> simp [Memory.read, hab]
  | cons e m ih =>
    obtain ⟨c, v'⟩ := e
    simp only [Memory.write]
    split
    · split <;> simp [Memory.read, hab]
    · split
      · next heq =>
        have hbc : b ≠ c := by omega
        split <;> simp [Memory.read, hab, hbc]
      · simp only [Memory.read, ih]

/-- A write inside the bounds keeps them. -/
theorem Memory.write_within {m : Memory w} {a bound : Nat} (v : BitVec w) (ha : a < bound)
    (h : Memory.within m bound = true) : Memory.within (Memory.write u m a v) bound = true := by
  simp only [Memory.within, List.all_eq_true, decide_eq_true_eq] at h ⊢
  intro c hc
  rcases Memory.mem_write hc with rfl | hc
  · exact ha
  · exact h c hc

/-! ## Bulk reads and writes -/

@[simp] theorem readCells_zero (m : Memory 8) (a : Nat) : readCells m a 0 = some [] := rfl

/-- What a bulk read answers: as many values as asked, each the value of its cell. -/
theorem readCells_eq_some {m : Memory 8} {count : Nat} : ∀ {a : Nat} {vs : List Byte},
    readCells m a count = some vs ↔
      vs.length = count ∧ ∀ i, i < count → Memory.read unlistedByte m (a + i) = vs[i]? := by
  induction count with
  | zero =>
    intro a vs
    constructor
    · rintro h; simp [readCells] at h; subst h; simp
    · rintro ⟨h, _⟩; simp [readCells, List.length_eq_zero_iff.mp h]
  | succ count ih =>
    intro a vs
    constructor
    · intro h
      simp only [readCells] at h
      split at h
      · next v vs' hv hvs =>
        obtain rfl : v :: vs' = vs := by simpa using h
        obtain ⟨hl, hr⟩ := ih.mp hvs
        refine ⟨by simp [hl], ?_⟩
        rintro (_ | i) hi
        · simpa using hv
        · rw [show a + (i + 1) = a + 1 + i by omega, hr i (by omega)]; simp
      · simp at h
    · rintro ⟨hl, hr⟩
      cases vs with
      | nil => simp at hl
      | cons v vs =>
        have h0 : Memory.read unlistedByte m a = some v := by simpa using hr 0 (by omega)
        have h1 : readCells m (a + 1) count = some vs := ih.mpr ⟨by simpa using hl, fun i hi => by
          rw [show a + 1 + i = a + (i + 1) by omega, hr (i + 1) (by omega)]; simp⟩
        simp [readCells, h0, h1]

/-- A bulk read of cells two spaces agree on answers the same. -/
theorem readCells_congr {m m' : Memory 8} : ∀ {count a : Nat},
    (∀ i, i < count → Memory.read unlistedByte m (a + i) = Memory.read unlistedByte m' (a + i)) →
      readCells m a count = readCells m' a count
  | 0, _, _ => rfl
  | count + 1, a, h => by
    have h0 := h 0 (by omega)
    have h1 : readCells m (a + 1) count = readCells m' (a + 1) count := readCells_congr fun i hi => by
      rw [show a + 1 + i = a + (i + 1) by omega]; exact h (i + 1) (by omega)
    simp only [Nat.add_zero] at h0
    simp only [readCells, h0, h1]

@[simp] theorem writeCells_nil (m : Memory 8) (a : Nat) : writeCells m a [] = m := rfl

/-- A bulk write keeps the canonical form. -/
theorem writeCells_wf : ∀ (vs : List Byte) {m : Memory 8} (a : Nat), Memory.wf unlistedByte m = true →
    Memory.wf unlistedByte (writeCells m a vs) = true
  | [], _, _, h => h
  | v :: vs, _, a, h => writeCells_wf vs (a + 1) (Memory.write_wf a v h)

/-- A bulk write inside the bounds keeps them. -/
theorem writeCells_within : ∀ (vs : List Byte) {m : Memory 8} {a bound : Nat}, a + vs.length ≤ bound →
    Memory.within m bound = true → Memory.within (writeCells m a vs) bound = true
  | [], _, _, _, _, h => h
  | v :: vs, _, a, bound, hl, h => by
    simp only [List.length_cons] at hl
    exact writeCells_within vs (by omega) (Memory.write_within v (by omega) h)

/-- What a cell holds after a bulk write: the value written to it, or what it held. -/
theorem read_writeCells : ∀ (vs : List Byte) {m : Memory 8} {a : Nat} (b : Nat), Memory.wf unlistedByte m = true →
    Memory.read unlistedByte (writeCells m a vs) b =
      if a ≤ b ∧ b < a + vs.length then vs[b - a]? else Memory.read unlistedByte m b
  | [], m, a, b, _ => by
    rw [writeCells, if_neg (by simp only [List.length_nil]; omega)]
  | v :: vs, m, a, b, h => by
    rw [writeCells, read_writeCells vs b (Memory.write_wf a v h)]
    simp only [List.length_cons]
    by_cases h1 : a + 1 ≤ b ∧ b < a + 1 + vs.length
    · rw [if_pos h1, if_pos (by omega), show b - a = (b - (a + 1)) + 1 by omega]
      simp
    · rw [if_neg h1]
      by_cases h2 : b = a
      · subst h2
        rw [Memory.read_write_same b v h, if_pos (by omega)]
        simp
      · rw [Memory.read_write_other v h2, if_neg (by omega)]

/-- The cells a bulk write wrote read back as the values written. -/
theorem readCells_writeCells (vs : List Byte) {m : Memory 8} (a : Nat) (h : Memory.wf unlistedByte m = true) :
    readCells (writeCells m a vs) a vs.length = some vs :=
  readCells_eq_some.mpr ⟨rfl, fun i hi => by
    rw [read_writeCells vs _ h, if_pos (by omega), show a + i - a = i by omega]⟩

/-! ## The plane -/

/-- The numbering of the cells is one to one on columns below 256 (00_scope R9: a column has 8 bits). -/
theorem planeIndex_inj {r c r' c' : Nat} (hc : c < 256) (hc' : c' < 256) (h : planeIndex r c = planeIndex r' c') :
    r = r' ∧ c = c' := by
  simp only [planeIndex] at h
  omega

/-- Removing listed cells keeps the canonical form. -/
theorem Memory.filter_wf {m : Memory w} (p : Nat × BitVec w → Bool) (h : Memory.wf u m = true) :
    Memory.wf u (m.filter p) = true := by
  induction m with
  | nil => rfl
  | cons e m ih =>
    obtain ⟨b, v⟩ := e
    obtain ⟨hv, hlow, hm⟩ := Memory.wf_cons.mp h
    rw [List.filter_cons]
    split
    · exact Memory.wf_cons.mpr ⟨hv, fun c hc => hlow c (List.mem_filter.mp hc).1, ih hm⟩
    · exact ih hm

/-- What a cell holds after listed cells were removed by their index. -/
theorem Memory.read_filter {m : Memory w} (p : Nat → Bool) (a : Nat) :
    Memory.read u (m.filter fun e => p e.1) a = if p a then Memory.read u m a else u := by
  induction m with
  | nil => simp [Memory.read]
  | cons e m ih =>
    obtain ⟨b, v⟩ := e
    rw [List.filter_cons]
    by_cases hab : a = b
    · subst hab
      by_cases hp : p a = true
      · simp [hp, Memory.read]
      · simp only [hp, Bool.false_eq_true, if_false, ih]
    · by_cases hp : p b = true
      · simp only [hp, if_true, Memory.read, hab, if_false, ih]
      · simp only [hp, Bool.false_eq_true, if_false, ih, Memory.read, hab]

/-- Clearing the plane keeps the canonical form. -/
theorem clearPlane_wf {m : Memory 1} (side : Nat) (h : Memory.wf unlistedFixed m = true) :
    Memory.wf unlistedFixed (clearPlane m side) = true := Memory.filter_wf _ h

/-- What a cell of FIXED holds after ZZ.SETVER: 0 inside the side, what it held outside (42_zigzag R202). -/
theorem read_clearPlane (m : Memory 1) (side : Nat) {r c : Nat} (hc : c < 256) :
    Memory.read unlistedFixed (clearPlane m side) (planeIndex r c) =
      if r < side ∧ c < side then some 0#1 else Memory.read unlistedFixed m (planeIndex r c) := by
  have hr : planeIndex r c / 256 = r := by simp only [planeIndex]; omega
  have hcc : planeIndex r c % 256 = c := by simp only [planeIndex]; omega
  rw [clearPlane, Memory.read_filter (fun a => !(decide (a / 256 < side) && decide (a % 256 < side)))]
  by_cases h : r < side ∧ c < side
  · simp [hr, hcc, h.1, h.2, unlistedFixed]
  · rw [if_neg h, if_pos]
    simp only [hr, hcc]
    rcases Decidable.not_and_iff_not_or_not.mp h with h | h <;> simp [h]

/-- What a cell of FIXED holds after ZZ.FIX: 1 at the cell fixed, what it held elsewhere (42_zigzag R203). -/
theorem read_fixCell {m : Memory 1} {r c r' c' : Nat} (hc : c < 256) (hc' : c' < 256)
    (h : Memory.wf unlistedFixed m = true) :
    Memory.read unlistedFixed (fixCell m r c) (planeIndex r' c') =
      if r' = r ∧ c' = c then some 1#1 else Memory.read unlistedFixed m (planeIndex r' c') := by
  by_cases heq : r' = r ∧ c' = c
  · obtain ⟨rfl, rfl⟩ := heq
    rw [if_pos ⟨rfl, rfl⟩, fixCell, Memory.read_write_same _ _ h]
  · rw [if_neg heq, fixCell, Memory.read_write_other]
    intro he
    exact heq (planeIndex_inj hc' hc he)

/-- Clearing the plane lists no cell outside the bounds. -/
theorem clearPlane_within {m : Memory 1} (side : Nat) {bound : Nat} (h : planeWithin m bound = true) :
    planeWithin (clearPlane m side) bound = true := by
  simp only [planeWithin, clearPlane, List.all_eq_true] at h ⊢
  exact fun c hc => h c (List.mem_filter.mp hc).1

/-- Fixing a cell inside the bounds keeps them. -/
theorem fixCell_within {m : Memory 1} {r c bound : Nat} (hr : r < bound) (hc : c < bound) (hc' : c < 256)
    (h : planeWithin m bound = true) : planeWithin (fixCell m r c) bound = true := by
  simp only [planeWithin, List.all_eq_true] at h ⊢
  intro e he
  rcases Memory.mem_write he with rfl | he
  · have h1 : planeIndex r c / 256 = r := by simp only [planeIndex]; omega
    have h2 : planeIndex r c % 256 = c := by simp only [planeIndex]; omega
    simp [h1, h2, hr, hc]
  · exact h e he

end Sys2Proof.Machine
end

