-- ==== Sys2Proof/Laws/PerInstr.lean ====
section
/-!
SUPPORT. Statements about every instruction as syntax, one lemma per constructor. Family `FixedBits`: the word an instruction
encodes to is selected by exactly one row of the opcode table, the row of its opcode and format (30_encoding R91, R100).
-/

namespace Sys2Proof.Laws.FixedBits

/-- The row of an instruction's opcode and format selects its encoded word, and OPC of that word is its opcode. -/
def Statement (i : Instr) : Prop :=
  encode i &&& (formatOf i).mask = (opcOf i).setWidth 32 <<< 24 ∧ cmdOpc (encode i) = opcOf i

/-- The operand bits a format's mask covers: all of them without operands, bits 15:8 in format B, none otherwise (R91). -/
def coveredBits : Format → Half
  | .z0 => 0xFFFF#16
  | .b => 0xFF00#16
  | .ab => 0#16
  | .w => 0#16

/-- A format's mask, laid out as a command word is. -/
theorem mask_layout (f : Format) : f.mask = (0xFF#8 ++ (0xFF#8 ++ coveredBits f) : Word) := by
  cases f <;> decide

/-- An opcode above 24 zeros is the opcode shifted left by 24 (R94). -/
theorem opc_layout (o : Byte) : (o ++ (0#8 ++ 0#16) : Word) = o.setWidth 32 <<< 24 := by
  revert o; decide

/-- An instruction whose operand bits its format's mask does not cover is selected by its row. -/
theorem statement_of (i : Instr) (h : operandBits i &&& coveredBits (formatOf i) = 0#16) : Statement i := by
  refine ⟨?_, cmdOpc_encode i⟩
  rw [mask_layout, encode, BitVec.and_append, BitVec.and_append, h, ← opc_layout]
  congr 1
  exact BitVec.and_allOnes

/-- An operand b leaves bits 15:8 zero, as format B asks. -/
theorem low_byte (b : Byte) : (0#8 ++ b : Half) &&& coveredBits .b = 0#16 := by
  revert b; decide

theorem sysNop : Statement .sysNop := statement_of _ (by decide)
theorem sysReset : Statement .sysReset := statement_of _ (by decide)
theorem sysRdreg (b : Byte) : Statement (.sysRdreg b) := statement_of _ (low_byte b)
theorem gfAdd (a b : Byte) : Statement (.gfAdd a b) := statement_of _ BitVec.and_zero
theorem gfMul (a b : Byte) : Statement (.gfMul a b) := statement_of _ BitVec.and_zero
theorem gfExp (w : Half) : Statement (.gfExp w) := statement_of _ BitVec.and_zero
theorem gfLog (b : Byte) : Statement (.gfLog b) := statement_of _ (low_byte b)
theorem gfPow (a b : Byte) : Statement (.gfPow a b) := statement_of _ BitVec.and_zero
theorem rsSetn (b : Byte) : Statement (.rsSetn b) := statement_of _ (low_byte b)
theorem rsGen : Statement .rsGen := statement_of _ (by decide)
theorem rsClr : Statement .rsClr := statement_of _ (by decide)
theorem rsPush (b : Byte) : Statement (.rsPush b) := statement_of _ (low_byte b)
theorem rsEnc : Statement .rsEnc := statement_of _ (by decide)
theorem rsRdgen (b : Byte) : Statement (.rsRdgen b) := statement_of _ (low_byte b)
theorem rsRdrem (b : Byte) : Statement (.rsRdrem b) := statement_of _ (low_byte b)
theorem rsRddat (b : Byte) : Statement (.rsRddat b) := statement_of _ (low_byte b)
theorem rsRdbit (w : Half) : Statement (.rsRdbit w) := statement_of _ BitVec.and_zero
theorem zzSetver (b : Byte) : Statement (.zzSetver b) := statement_of _ (low_byte b)
theorem zzFix (a b : Byte) : Statement (.zzFix a b) := statement_of _ BitVec.and_zero
theorem zzStart (b : Byte) : Statement (.zzStart b) := statement_of _ (low_byte b)
theorem zzNext : Statement .zzNext := statement_of _ (by decide)
theorem zzCount : Statement .zzCount := statement_of _ (by decide)
theorem zzRdfix (a b : Byte) : Statement (.zzRdfix a b) := statement_of _ BitVec.and_zero
theorem fmtEnc (a b : Byte) : Statement (.fmtEnc a b) := statement_of _ BitVec.and_zero
theorem fmtBch (b : Byte) : Statement (.fmtBch b) := statement_of _ (low_byte b)

end Sys2Proof.Laws.FixedBits
end

