-- ==== Sys2Proof/Laws/Traverse.lean ====
section
/-!
SUPPORT. What the scan of ZZ.NEXT can do (42_zigzag R205): it passes over fixed cells of the grid only, and stops at the first
writable one, at the end, or off the grid.
-/

namespace Sys2Proof.Machine

/-- The cursor `m` probes further (42_zigzag R212). -/
def Cursor.advanceBy (side : Nat) : Nat → Cursor → Cursor
  | 0, c => c
  | m + 1, c => Cursor.advanceBy side m (c.advance side)

@[simp] theorem Cursor.advanceBy_zero (side : Nat) (c : Cursor) : c.advanceBy side 0 = c := rfl

@[simp] theorem Cursor.advanceBy_succ (side m : Nat) (c : Cursor) :
    c.advanceBy side (m + 1) = (c.advance side).advanceBy side m := rfl

/-- The `m` cells from the cursor on are fixed cells of the grid. -/
def Skips (side : Nat) (fixed : Nat → Nat → Bool) (c : Cursor) (m : Nat) : Prop :=
  ∀ i, i < m → (c.advanceBy side i).onGrid side ∧
    fixed (cellAt side (c.advanceBy side i)).1 (cellAt side (c.advanceBy side i)).2 = true

/-- Skipping one more cell at the front. -/
theorem Skips.cons {side m : Nat} {fixed : Nat → Nat → Bool} {c : Cursor} (hg : c.onGrid side)
    (hf : fixed (cellAt side c).1 (cellAt side c).2 = true) (h : Skips side fixed (c.advance side) m) :
    Skips side fixed c (m + 1) := by
  rintro (_ | i) hi
  · exact ⟨hg, hf⟩
  · exact h i (by omega)

/-- Everything a scan can answer: after skipping m fixed cells of the grid it stands on a writable cell, at the end, or it has
left the grid or used up its fuel. -/
theorem scan_cases (side : Nat) (fixed : Nat → Nat → Bool) : ∀ (fuel : Nat) (c : Cursor),
    ∃ m, m ≤ fuel ∧ Skips side fixed c m ∧
      let d := c.advanceBy side m
      (m < fuel ∧ d.onGrid side ∧ fixed (cellAt side d).1 (cellAt side d).2 = false ∧
        scan side fixed fuel c = .found (cellAt side d) (d.advance side)) ∨
      (m < fuel ∧ d.pair = pairCount side ∧ scan side fixed fuel c = .atEnd d) ∨
      (scan side fixed fuel c = .offGrid ∧ (m = fuel ∨ d.pair ≠ pairCount side ∧ ¬ d.onGrid side))
  | 0, c => ⟨0, Nat.le_refl 0, fun i hi => absurd hi (Nat.not_lt_zero i), .inr (.inr ⟨rfl, .inl rfl⟩)⟩
  | fuel + 1, c => by
    by_cases hend : c.pair = pairCount side
    · refine ⟨0, Nat.zero_le _, fun i hi => absurd hi (Nat.not_lt_zero i), .inr (.inl ⟨Nat.succ_pos _, hend, ?_⟩)⟩
      simp [scan, hend]
    · by_cases hgrid : c.pair < pairCount side ∧ c.step < side
      · cases hf : fixed (cellAt side c).1 (cellAt side c).2 with
        | false =>
          refine ⟨0, Nat.zero_le _, fun i hi => absurd hi (Nat.not_lt_zero i), .inl ⟨Nat.succ_pos _, hgrid, hf, ?_⟩⟩
          simp [scan, hend, hgrid, hf]
        | true =>
          have hs : scan side fixed (fuel + 1) c = scan side fixed fuel (c.advance side) := by
            simp [scan, hend, hgrid, hf]
          obtain ⟨m, hm, hsk, hres⟩ := scan_cases side fixed fuel (c.advance side)
          refine ⟨m + 1, by omega, hsk.cons hgrid hf, ?_⟩
          rw [hs]
          rcases hres with ⟨h1, h2⟩ | ⟨h1, h2⟩ | ⟨h1, h2⟩
          · exact .inl ⟨by omega, h2⟩
          · exact .inr (.inl ⟨by omega, h2⟩)
          · exact .inr (.inr ⟨h1, h2.imp (by omega) id⟩)
      · refine ⟨0, Nat.zero_le _, fun i hi => absurd hi (Nat.not_lt_zero i), .inr (.inr ⟨?_, .inr ⟨hend, hgrid⟩⟩)⟩
        simp [scan, hend, hgrid]

/-- Advancing keeps a cursor on the grid or brings it to the first probe of the end (42_zigzag R210, R212). -/
theorem Cursor.advance_onGrid {side : Nat} {c : Cursor} (h : c.onGrid side) :
    (c.advance side).onGrid side ∨ c.advance side = { pair := pairCount side, step := 0, left := false } := by
  obtain ⟨hp, hs⟩ := h
  unfold Cursor.advance Cursor.onGrid
  split
  · split
    · by_cases hl : c.pair + 1 < pairCount side
      · exact .inl ⟨hl, Nat.zero_lt_of_lt hs⟩
      · exact .inr (by simp; omega)
    · exact .inl ⟨hp, by simp; omega⟩
  · exact .inl ⟨hp, hs⟩

end Sys2Proof.Machine
end

