-- ==== Sys2Proof/Tests/Slice0.lean ====
section
/-!
SUPPORT. The model's own tests: terms the well-formedness checks refuse, words written out from the spec's encodings, single
operations against the spec's examples and vectors (the expected values are the spec's), and for every statement with
hypotheses a witness that meets them.
-/

namespace Sys2Proof.Tests

open Sys2Proof.Machine Sys2Proof.Spec

/- One theorem after the other: elaborated side by side, each with a stack of its own, they run out of memory. -/
set_option Elab.async false

/-! ## Helpers -/

/-- The next state of an outcome, if it has one. -/
def nextOf : Host.Outcome State Fault Refusal → Option State
  | .next t => some t
  | .fault _ => none
  | .refused _ => none

/-- An outcome whose next state passes a check is a next state that passes it. -/
theorem ends_next {o : Host.Outcome State Fault Refusal} (p : State → Bool) (h : (nextOf o).any p = true) :
    ∃ t, o = .next t ∧ p t = true := by
  cases o with
  | next t => exact ⟨t, rfl, h⟩
  | fault r => cases h
  | refused r => cases h

/-- The response to an operation run in a state, as the pair (err, data). -/
def answer (i : Instr) (s : State) : Option (Nat × Nat) :=
  ((nextOf (exec i s)).bind (·.rsp)).map fun r => (r.err.toNat, r.data.toNat)

/-- The response the next step gives. -/
def stepAnswer (s : State) : Option (Nat × Nat) :=
  ((nextOf (step s)).bind (·.rsp)).map fun r => (r.err.toNat, r.data.toNat)

/-- The state after an operation, the state itself where it stops. -/
def after (i : Instr) (s : State) : State := (nextOf (exec i s)).getD s

/-- The reset state with the host about to issue a word. -/
def ready (cmd : Word) : State := { State.reset with moves := [.issue cmd] }

/-- N = 1 with its generator [1, 1], one data codeword 0x20 and its remainder 0x20 (the
example of program P4: K = 1, N = 1). -/
def oneCodeword : State :=
  { State.reset with
    k := 1#8, dbuf := [(0, 0x20#8)], n := 1#8, genv := true, gen := [(0, 1#8), (1, 1#8)], remv := true,
    rem := [(0, 0x20#8)] }

/-- A positions-only traversal of the blank side-21 plane T0, just started. -/
def started : State := { State.reset with ver := 1#6, zst := .run }

/-- The same traversal with all 420 positions emitted and the end not yet reported. -/
def drained : State := { started with zp := 10#8, zidx := 420#16 }

/-- The same traversal after done. -/
def finished : State := { drained with zst := .done }

/-- A place-mode traversal of one data codeword and one ECC codeword on T0, two positions emitted. -/
def placing : State :=
  { oneCodeword with ver := 1#6, zst := .run, zmode := true, zt := 1#8, zidx := 2#16 }

/-- The same with all sixteen bits placed. -/
def placed : State := { placing with zt := 8#8, zidx := 16#16 }

/-- Version 1 with the cell (20, 20) fixed, a traversal just started, and the cell of column 6 in row 0 fixed too. -/
def fixedCorner : State := { started with fixed := [(planeIndex 0 6, 1#1), (planeIndex 20 20, 1#1)] }

/-- A block in the error state E_LOG_ZERO. -/
def failed : State := { oneCodeword with err := 3#4 }

/-- The bounds and the Reed-Solomon part of the invariant, for a decision procedure; `data` are the codewords of DBUF. -/
abbrev ChecksRs (s : State) (data : List Byte) : Prop :=
  s.cfg.Valid ∧ (s.k.toNat ≤ s.cfg.kMax ∧ s.n.toNat ≤ s.cfg.nMax ∧ s.ver.toNat ≤ s.cfg.vMax) ∧
    (readCells s.dbuf 0 s.k.toNat).isSome = true ∧
    (s.genv = true → 1 ≤ s.n.toNat ∧ readCells s.gen 0 (s.n.toNat + 1) = some (genpoly s.n.toNat)) ∧
    (s.remv = true → s.genv = true ∧ 1 ≤ s.k.toNat ∧
      readCells s.dbuf 0 s.k.toNat = some data ∧ readCells s.rem 0 s.n.toNat = some (rsrem data s.n.toNat))

/-- The traversal part of the invariant. -/
abbrev ChecksZz (s : State) : Prop :=
  (s.zst ≠ .idle → s.ver ≠ 0#6) ∧ (s.zst ≠ .idle → s.zmode = true → s.remv = true ∧ bitLength s ≤ countOf s) ∧
    (s.zst = .run → s.zp.toNat ≤ pairCount (sideOf s) ∧ s.zt.toNat < sideOf s ∧
      s.zidx.toNat = writableBefore (sideOf s) (isFixed s) (cursorOf s)) ∧
    (s.zst = .done → s.zidx.toNat = countOf s)

/-- All of it, for a state with no response presented. -/
def checks (s : State) (data : List Byte) : Bool :=
  decide (ChecksRs s data) && (decide (ChecksZz s) &&
    (decide (s.err.toNat ≤ 8 ∧ s.rsp = none) && (decide (Canonical s) && decide (InRange s))))

/-- A state that passes the checks meets the invariants. -/
theorem inv_of {s : State} (data : List Byte) (h : checks s data = true) : Inv s := by
  simp only [checks, Bool.and_eq_true, decide_eq_true_eq] at h
  obtain ⟨⟨h1, h2, h3, h4, h5⟩, ⟨h6, h7, h8, h9⟩, ⟨h10, h11⟩, h12, h13⟩ := h
  exact ⟨h1, h2, h3, h4, fun hr => ⟨(h5 hr).1, (h5 hr).2.1, data, (h5 hr).2.2⟩, h6, h7, h8, h9, h10,
    fun r hr => absurd (h11.symm.trans hr) (by simp), h12, h13⟩

/-! ## Well-formedness: an ill-formed term for each check -/

/-- Row check 1 (R91): a match bit outside the mask. -/
theorem test_wf_refuses_match_outside_mask :
    ({ opc := 0#8, mnemonic := "BAD", format := .b, matchBits := 0x00000001#32, mask := 0xFFFFFF00#32 } : Row).matchUnderMask
      = false := by decide

/-- Row check 2 (R91): a mask that leaves an opcode bit out. -/
theorem test_wf_refuses_mask_without_opc :
    ({ opc := 0#8, mnemonic := "BAD", format := .b, matchBits := 0#32, mask := 0x7FFFFF00#32 } : Row).maskCoversOpc = false := by
  decide

/-- Row check 3 (R94): a match that is not the opcode shifted. -/
theorem test_wf_refuses_match_not_opc :
    ({ opc := 2#8, mnemonic := "BAD", format := .b, matchBits := 0x03000000#32, mask := 0xFFFFFF00#32 } : Row).matchIsOpc
      = false := by decide

/-- A row failing any of the three is refused as a whole. -/
theorem test_wf_refuses_row :
    ({ opc := 2#8, mnemonic := "BAD", format := .b, matchBits := 0x03000000#32, mask := 0xFFFFFF00#32 } : Row).wf = false ∧
    tableWf [{ opc := 0#8, mnemonic := "BAD", format := .b, matchBits := 0#32, mask := 0x7FFFFF00#32 }] = false := by decide

/-- Table check (R91): two rows that one word selects. -/
theorem test_wf_refuses_overlap : tableWf [tableRow 2#8 "ONE" .b, tableRow 2#8 "TWO" .ab] = false := by decide

/-- Pseudo-instruction checks (R99): no codeword; r0 > r1; c0 > c1. -/
theorem test_wf_refuses_pseudo :
    (Pseudo.rsLoad []).wf = false ∧ (Pseudo.zzFixrect 2#8 0#8 1#8 0#8).wf = false ∧
    (Pseudo.zzFixrect 0#8 2#8 0#8 1#8).wf = false := by decide

/-- The opcode table itself is well-formed, and has the 25 rows of opcode_table.json with their match and mask. -/
theorem test_table_matches_spec :
    tableWf opcodeTable = true ∧ opcodeTable.map (fun r => (r.matchBits.toNat, r.mask.toNat)) =
      [(0x00000000, 0xFFFFFFFF), (0x01000000, 0xFFFFFFFF), (0x02000000, 0xFFFFFF00), (0x10000000, 0xFFFF0000)] ++
      [(0x11000000, 0xFFFF0000), (0x12000000, 0xFFFF0000), (0x13000000, 0xFFFFFF00), (0x14000000, 0xFFFF0000)] ++
      [(0x20000000, 0xFFFFFF00), (0x21000000, 0xFFFFFFFF), (0x22000000, 0xFFFFFFFF), (0x23000000, 0xFFFFFF00)] ++
      [(0x24000000, 0xFFFFFFFF), (0x25000000, 0xFFFFFF00), (0x26000000, 0xFFFFFF00), (0x27000000, 0xFFFFFF00)] ++
      [(0x28000000, 0xFFFF0000), (0x30000000, 0xFFFFFF00), (0x31000000, 0xFFFF0000), (0x32000000, 0xFFFFFF00)] ++
      [(0x33000000, 0xFFFFFFFF), (0x34000000, 0xFFFFFFFF), (0x35000000, 0xFFFF0000), (0x40000000, 0xFFFF0000)] ++
      [(0x41000000, 0xFFFFFF00)] := by decide +kernel

/-! ## Decoding: every constructor from a word written out from its row of opcode_table.json -/

theorem test_decode_sys :
    decode 0b00000000_00000000_00000000_00000000#32 = .instr .sysNop ∧
    decode 0b00000001_00000000_00000000_00000000#32 = .instr .sysReset ∧
    decode 0b00000010_00000000_00000000_00001001#32 = .instr (.sysRdreg 9#8) := by decide

theorem test_decode_gf :
    decode 0b00010000_00000000_01010011_11001010#32 = .instr (.gfAdd 0x53#8 0xCA#8) ∧
    decode 0b00010001_00000000_01010011_11001010#32 = .instr (.gfMul 0x53#8 0xCA#8) ∧
    decode 0b00010010_00000000_00000001_00101100#32 = .instr (.gfExp 300#16) ∧
    decode 0b00010011_00000000_00000000_00011101#32 = .instr (.gfLog 0x1D#8) ∧
    decode 0b00010100_00000000_00000010_00001000#32 = .instr (.gfPow 2#8 8#8) := by decide

theorem test_decode_rs :
    decode 0b00100000_00000000_00000000_00001010#32 = .instr (.rsSetn 10#8) ∧
    decode 0b00100001_00000000_00000000_00000000#32 = .instr .rsGen ∧
    decode 0b00100010_00000000_00000000_00000000#32 = .instr .rsClr ∧
    decode 0b00100011_00000000_00000000_00100000#32 = .instr (.rsPush 0x20#8) ∧
    decode 0b00100100_00000000_00000000_00000000#32 = .instr .rsEnc ∧
    decode 0b00100101_00000000_00000000_00000001#32 = .instr (.rsRdgen 1#8) ∧
    decode 0b00100110_00000000_00000000_00001001#32 = .instr (.rsRdrem 9#8) ∧
    decode 0b00100111_00000000_00000000_00001111#32 = .instr (.rsRddat 15#8) ∧
    decode 0b00101000_00000000_00000010_00000001#32 = .instr (.rsRdbit 513#16) := by decide

theorem test_decode_zz :
    decode 0b00110000_00000000_00000000_00000001#32 = .instr (.zzSetver 1#8) ∧
    decode 0b00110001_00000000_00000110_00010100#32 = .instr (.zzFix 6#8 20#8) ∧
    decode 0b00110010_00000000_00000000_00000001#32 = .instr (.zzStart 1#8) ∧
    decode 0b00110011_00000000_00000000_00000000#32 = .instr .zzNext ∧
    decode 0b00110100_00000000_00000000_00000000#32 = .instr .zzCount ∧
    decode 0b00110101_00000000_00000110_00010100#32 = .instr (.zzRdfix 6#8 20#8) := by decide

theorem test_decode_fmt :
    decode 0b01000000_00000000_00000001_00000000#32 = .instr (.fmtEnc 1#8 0#8) ∧
    decode 0b01000001_00000000_00000000_00001000#32 = .instr (.fmtBch 8#8) := by decide

/-- R96: the boundary values of the unassigned opcode ranges are rejected by name. -/
theorem test_decode_rejects_unassigned :
    ([0x03#8, 0x0F#8, 0x15#8, 0x1F#8, 0x29#8, 0x2F#8, 0x36#8, 0x3F#8, 0x42#8, 0xFF#8].all fun o =>
      decode (o.setWidth 32 <<< 24) == .illegal (.unknownOpc o)) = true := by decide

/-- R91, R96: the lowest and the highest must-be-zero bit of each format. -/
theorem test_decode_rejects_must_be_zero :
    ([0x00000001#32, 0x00800000#32, 0x01000001#32].all fun w => decode w == .illegal (.mustBeZero .z0)) = true ∧
    ([0x02000100#32, 0x02800000#32].all fun w => decode w == .illegal (.mustBeZero .b)) = true ∧
    ([0x10010000#32, 0x10800000#32].all fun w => decode w == .illegal (.mustBeZero .ab)) = true ∧
    ([0x12010000#32, 0x28800000#32].all fun w => decode w == .illegal (.mustBeZero .w)) = true := by decide

/-- R99: the expansions. -/
theorem test_pseudo_expansions :
    (Pseudo.rsLoad [1#8, 2#8]).expand = [.rsClr, .rsPush 1#8, .rsPush 2#8] ∧
    (Pseudo.rsBlock 10#8).expand = [.rsSetn 10#8, .rsGen] ∧
    (Pseudo.zzFixrect 1#8 2#8 2#8 3#8).expand = [.zzFix 1#8 2#8, .zzFix 1#8 3#8, .zzFix 2#8 2#8, .zzFix 2#8 3#8] ∧
    (Pseudo.zzDrain 2).expand = [.zzNext, .zzNext] := by decide

/-- The host's two questions: the decoder of a table word, and the first instruction after reset. -/
theorem test_table_word_runs_first :
    decodeTableWord 32 0x02000009 = some (.sysRdreg 9#8) ∧ decodeTableWord 32 0x03000000 = none ∧
    stepAnswer (State.reset.withFetchWord 32 0x02000009) = some (0, 0x0028FFFF) ∧
    stepAnswer (State.reset.withFetchWord 32 0x03000000) = some (1, 0) := by decide

/-! ## SYS (44_system R250 to R252, R255) -/

theorem test_sys_nop :
    answer .sysNop { placing with res := 7#32 } = some (0, 0) ∧ (after .sysNop { placing with res := 7#32 }).res = 7#32 := by
  decide

theorem test_sys_reset : answer .sysReset failed = some (0, 0) ∧ after .sysReset failed =
    { State.reset with rsp := some { err := 0#4, data := 0#32 } } := by decide

/-- V71 and R252: ID, CAP; register 10 does not exist; STATUS of a place-mode traversal has GENV, REMV, RUN, ZMODE, VSET. -/
theorem test_sys_rdreg :
    answer (.sysRdreg 0#8) State.reset = some (0, 0x51520001) ∧ answer (.sysRdreg 9#8) State.reset = some (0, 0x0028FFFF) ∧
    answer (.sysRdreg 10#8) State.reset = some (2, 0) ∧ answer (.sysRdreg 1#8) placing = some (0, 0x00000370) := by decide

/-- R205's example: ZCUR = 0x00000100 after one emitted cell at (20, 19); R38: register 8 is the register read before. -/
theorem test_sys_rdreg_cursor_and_res :
    answer (.sysRdreg 7#8) (after .zzNext fixedCorner) = some (0, 0x00000100) ∧
    answer (.sysRdreg 8#8) (after (.sysRdreg 5#8) started) = some (0, 21) := by decide +kernel

/-- R255, R273: in the error state a command is answered (ERR, 0), and only SYS.RESET's own word resets. -/
theorem test_error_state :
    stepAnswer { failed with moves := [.issue 0x00000000#32] } = some (3, 0) ∧
    stepAnswer { failed with moves := [.issue 0x01000001#32] } = some (3, 0) ∧
    stepAnswer { failed with moves := [.issue 0xFF000000#32] } = some (3, 0) ∧
    stepAnswer { failed with moves := [.issue 0x01000000#32] } = some (0, 0) := by decide

/-! ## GF (40_gf256 R135 to R139; vectors V1 to V5) -/

theorem test_gf_add : answer (.gfAdd 0x53#8 0xCA#8) State.reset = some (0, 0x99) := by decide

theorem test_gf_mul :
    answer (.gfMul 0x53#8 0xCA#8) State.reset = some (0, 0x8F) ∧ answer (.gfMul 2#8 128#8) State.reset = some (0, 29) := by
  decide +kernel

theorem test_gf_exp :
    answer (.gfExp 300#16) State.reset = some (0, 0xC1) ∧ answer (.gfExp 511#16) State.reset = some (0, 2) ∧
    answer (.gfExp 512#16) State.reset = some (2, 0) := by decide +kernel

theorem test_gf_log :
    answer (.gfLog 202#8) State.reset = some (0, 0x49) ∧ answer (.gfLog 255#8) State.reset = some (0, 0xAF) ∧
    answer (.gfLog 0#8) State.reset = some (3, 0) := by decide +kernel

theorem test_gf_pow :
    answer (.gfPow 2#8 8#8) State.reset = some (0, 0x1D) ∧ answer (.gfPow 0#8 0#8) State.reset = some (0, 1) ∧
    answer (.gfPow 2#8 254#8) State.reset = some (0, 142) := by decide +kernel

/-! ## RS (41_reed_solomon R155 to R163) -/

theorem test_rs_setn :
    answer (.rsSetn 0#8) State.reset = some (2, 0) ∧
    (fun s => (s.n, s.genv, s.remv, s.zst)) (after (.rsSetn 10#8) placing) = (10#8, false, false, .idle) := by decide

/-- R152: genpoly(7). -/
theorem test_rs_gen :
    answer .rsGen State.reset = some (6, 0) ∧ (after .rsGen (after (.rsSetn 7#8) State.reset)).gen =
      [(0, 1#8), (1, 127#8), (2, 122#8), (3, 154#8), (4, 164#8), (5, 11#8), (6, 68#8), (7, 117#8)] := by decide +kernel

theorem test_rs_clr : (fun s => (s.k, s.remv, s.genv, s.n, s.zst)) (after .rsClr placing) = (0#8, false, true, 1#8, .idle) := by decide

/-- R158: a full buffer raises; else the codeword goes to DBUF[K], the cell over an old one too. -/
theorem test_rs_push :
    answer (.rsPush 1#8) { State.reset with k := 255#8 } = some (5, 0) ∧
    (fun s => (s.k, s.dbuf, s.remv)) (after (.rsPush 0#8) oneCodeword) = (2#8, [(0, 0x20#8), (1, 0#8)], false) ∧
    (after (.rsPush 7#8) (after .rsClr oneCodeword)).dbuf = [(0, 7#8)] := by decide

/-- R152, R153: REM of the single codeword 1 with N = 5 is genpoly(5) without its leading term. -/
theorem test_rs_enc :
    answer .rsEnc State.reset = some (6, 0) ∧
    (after .rsEnc { oneCodeword with dbuf := [(0, 1#8)], n := 5#8, gen := writeCells [] 0 (genpoly 5) }).rem =
      [(0, 31#8), (1, 198#8), (2, 63#8), (3, 147#8), (4, 116#8)] := by decide +kernel

/-- V20: the remainder of the sixteen codewords of the spec's worked example, N = 10. -/
theorem test_rsrem_worked_example :
    (rsrem [0x20#8, 0x5B#8, 0x0B#8, 0x78#8, 0xD1#8, 0x72#8, 0xDC#8, 0x4D#8, 0x43#8, 0x40#8, 0xEC#8, 0x11#8, 0xEC#8, 0x11#8,
      0xEC#8, 0x11#8] 10).map BitVec.toNat = [0xC4, 0x23, 0x27, 0x77, 0xEB, 0xD7, 0xE7, 0xE2, 0x5D, 0x17] := by
  decide +kernel

theorem test_rs_rdgen :
    answer (.rsRdgen 0#8) State.reset = some (6, 0) ∧ answer (.rsRdgen 1#8) oneCodeword = some (0, 1) ∧
    answer (.rsRdgen 2#8) oneCodeword = some (2, 0) := by decide

theorem test_rs_rdrem :
    answer (.rsRdrem 9#8) State.reset = some (6, 0) ∧ answer (.rsRdrem 0#8) oneCodeword = some (0, 0x20) ∧
    answer (.rsRdrem 1#8) oneCodeword = some (2, 0) := by decide

theorem test_rs_rddat : answer (.rsRddat 0#8) State.reset = some (2, 0) ∧ answer (.rsRddat 0#8) oneCodeword = some (0, 0x20) := by decide

/-- R163: bit 2 of 0x20 from the left is 1; w = 8K is bit 7 of REM[0]; w = 8(K+N) is out of range. -/
theorem test_rs_rdbit :
    answer (.rsRdbit 2#16) oneCodeword = some (0, 1) ∧ answer (.rsRdbit 8#16) oneCodeword = some (0, 0) ∧
    answer (.rsRdbit 10#16) oneCodeword = some (0, 1) ∧ answer (.rsRdbit 16#16) oneCodeword = some (2, 0) ∧
    answer (.rsRdbit 0#16) State.reset = some (6, 0) := by decide

/-! ## ZZ (42_zigzag R202 to R208, R214) -/

/-- X11: the sides of versions 1, 2, 7 and 40; version 41 is out of range. -/
theorem test_zz_setver :
    answer (.zzSetver 1#8) State.reset = some (0, 21) ∧ answer (.zzSetver 7#8) State.reset = some (0, 45) ∧
    answer (.zzSetver 40#8) State.reset = some (0, 177) ∧ answer (.zzSetver 41#8) State.reset = some (2, 0) ∧
    (after (.zzSetver 1#8) fixedCorner).fixed = [] := by decide

theorem test_zz_fix :
    answer (.zzFix 0#8 0#8) State.reset = some (7, 0) ∧ answer (.zzFix 21#8 0#8) started = some (2, 0) ∧
    (fun s => (s.fixed, s.zst)) (after (.zzFix 6#8 20#8) started) = ([(planeIndex 6 20, 1#1)], .idle) := by decide

/-- R204: 420 positions on T0, 419 with (20, 20) fixed (column 6 does not count); the checks in their order. -/
theorem test_zz_start :
    answer (.zzStart 0#8) started = some (0, 420) ∧ answer (.zzStart 0#8) fixedCorner = some (0, 419) ∧
    answer (.zzStart 2#8) State.reset = some (2, 0) ∧ answer (.zzStart 1#8) State.reset = some (7, 0) ∧
    answer (.zzStart 1#8) started = some (7, 0) ∧ answer (.zzStart 1#8) placing = some (0, 420) := by decide +kernel

/-- R204: in place mode 53 codewords (424 bits) are too many for 420 cells. -/
theorem test_zz_start_overflow : answer (.zzStart 1#8) { placing with k := 52#8 } = some (8, 0) := by decide +kernel

/-- R205, R206: the example after ZZ.FIX 20, 20; the value bit of position 2 (bit 5 of 0x20) is 1; past the bits it is 0. -/
theorem test_zz_next :
    answer .zzNext fixedCorner = some (0, 0x00001413) ∧ answer .zzNext placing = some (0, 0x00011314) ∧
    answer .zzNext placed = some (0, 0x00000C14) ∧ answer .zzNext State.reset = some (7, 0) := by decide +kernel

/-- R205: the last writable cell leaves RUN; the next ZZ.NEXT is done; DONE repeats it. -/
theorem test_zz_next_end :
    (fun s => (s.zst, s.rsp.map (·.data))) (after .zzNext drained) = (.done, some 0x00020000#32) ∧
    answer .zzNext finished = some (0, 0x00020000) ∧
    (fun s => (s.zst, s.zp, s.zidx)) (after .zzNext { started with zp := 9#8, zt := 20#8, zh := true, zidx := 419#16 }) =
      (.run, 10#8, 420#16) := by decide +kernel

/-- V41, R191: the last pairs of side 21, and the first four positions of the blank plane. -/
theorem test_zz_order :
    (zzseq 21 fun _ _ => false).take 4 = [(20, 20), (20, 19), (19, 20), (19, 19)] ∧
    ((zzseq 21 fun _ _ => false)[294]? = some (0, 5)) ∧ (zzseq 21 fun _ _ => false).getLast? = some (20, 0) := by decide +kernel

theorem test_zz_count : answer .zzCount State.reset = some (7, 0) ∧ answer .zzCount fixedCorner = some (0, 419) := by decide +kernel

theorem test_zz_rdfix :
    answer (.zzRdfix 20#8 20#8) fixedCorner = some (0, 1) ∧ answer (.zzRdfix 20#8 19#8) fixedCorner = some (0, 0) ∧
    answer (.zzRdfix 21#8 0#8) fixedCorner = some (2, 0) ∧ answer (.zzRdfix 0#8 0#8) State.reset = some (7, 0) := by decide

/-! ## FMT (43_format_bch R240, R241; vectors V60 to V63) -/

theorem test_fmt_enc :
    answer (.fmtEnc 0#8 0#8) State.reset = some (0, 0x77C4) ∧ answer (.fmtEnc 1#8 0#8) State.reset = some (0, 0x5412) ∧
    answer (.fmtEnc 3#8 7#8) State.reset = some (0, 0x083B) := by decide +kernel

theorem test_fmt_enc_checks :
    answer (.fmtEnc 4#8 8#8) State.reset = some (4, 0) ∧ answer (.fmtEnc 3#8 8#8) State.reset = some (2, 0) := by decide

theorem test_fmt_bch :
    answer (.fmtBch 8#8) State.reset = some (0, 0x3D6) ∧ answer (.fmtBch 31#8) State.reset = some (0, 0x3FF) ∧
    answer (.fmtBch 32#8) State.reset = some (2, 0) := by decide +kernel

/-! ## Witnesses: for every statement with hypotheses, states and operands that meet them, at the boundary of each clause -/

/-- The states of this file meet the invariants: after reset with a word to come, a traversal started, drained, finished, in place
mode before and after its last bit, with fixed cells, and the error state. -/
theorem witness_inv :
    Inv (ready 0#32) ∧ Inv started ∧ Inv drained ∧ Inv finished ∧ Inv placing ∧ Inv placed ∧ Inv fixedCorner ∧ Inv failed :=
  ⟨inv_of [] (by decide +kernel), inv_of [] (by decide +kernel), inv_of [] (by decide +kernel), inv_of [] (by decide +kernel),
    inv_of [0x20#8] (by decide +kernel), inv_of [0x20#8] (by decide +kernel), inv_of [] (by decide +kernel),
    inv_of [0x20#8] (by decide +kernel)⟩

theorem witness_EncodeOfDecode : decode 0x280001FF#32 = .instr (.rsRdbit 511#16) := by decide

theorem witness_IllegalWordsExactly :
    (∃ why, decode 0x03000000#32 = .illegal why) ∧ (ready 0x03000000#32).moves = .issue 0x03000000#32 :: [] ∧
    (ready 0x03000000#32).err = 0#4 ∧ failed.err ≠ 0#4 ∧ Unassigned 0x0F ∧ Unassigned 0x42 ∧ Unassigned 0xFF ∧
    NonzeroMbz 0x00000001 ∧ NonzeroMbz 0x02000100 ∧ NonzeroMbz 0x10010000 ∧ NonzeroMbz 0x28800000 := by
  refine ⟨⟨_, rfl⟩, by decide, by decide, by decide, ?_⟩
  simp only [Unassigned, NonzeroMbz]
  refine ⟨?_, ?_, ?_, ?_, ?_, ?_, ?_⟩ <;> decide

theorem witness_TableSelectsDecoded :
    (∃ p ∈ opcodeTable, p.selects 0x110053CA#32 = true) ∧ decode 0x110053CA#32 = .instr (.gfMul 0x53#8 0xCA#8) ∧
    ∃ why, decode 0x110153CA#32 = .illegal why := by
  refine ⟨?_, ?_, _, rfl⟩ <;> decide

/-- The three clauses: ERR = 0 and an operation, ERR ≠ 0 and SYS.RESET; an illegal word; another command in the error state. -/
theorem witness_StepRunsDecodedCommand :
    ((ready 0x110053CA#32).moves = [.issue 0x110053CA#32] ∧ decode 0x110053CA#32 = .instr (.gfMul 0x53#8 0xCA#8) ∧
      (ready 0x110053CA#32).err = 0#4) ∧
    (decode 0x01000000#32 = .instr .sysReset ∧ failed.err ≠ 0#4) ∧
    (decode 0x01000001#32 = .illegal (.mustBeZero .z0) ∧ decode 0x01000001#32 ≠ .instr .sysReset) := by decide

theorem witness_IdleAndTake :
    State.reset.moves = [] ∧ { oneCodeword with moves := [.take, .rst] }.moves = .take :: [.rst] := by decide

/-- A state in the error state with each kind of move, and a step that changes ERR. -/
theorem witness_ErrorStateLeftOnlyByReset :
    failed.err ≠ 0#4 ∧ { failed with moves := [.issue 0x01000001#32] }.moves = .issue 0x01000001#32 :: [] ∧
    0x01000001#32 ≠ 0x01000000#32 ∧ { failed with moves := [.rst] }.moves = .rst :: [] ∧
    ∃ t, step { failed with moves := [.issue 0x01000000#32] } = .next t ∧ decide (t.err ≠ failed.err) = true := by
  refine ⟨by decide, by decide, by decide, by decide, ends_next _ (by decide)⟩

theorem witness_RaiseWritesErrOnly :
    oneCodeword.err = 0#4 ∧ ∃ t, exec (.gfLog 0#8) oneCodeword = .next t ∧ decide (t.err ≠ 0#4) = true :=
  ⟨by decide, ends_next _ (by decide +kernel)⟩

/-- An operation that raises and one that does not; every operation of the table of R270 with the errors it lists. -/
theorem witness_ErrorsRaisedExactly :
    State.reset.err = 0#4 ∧ (∃ t, exec (.zzStart 2#8) State.reset = .next t ∧ decide (t.err.toNat = 2) = true) ∧
    (∃ t, exec .sysNop State.reset = .next t ∧ decide (t.err = 0#4) = true) ∧ 8 ∈ raisable (.zzStart 0#8) :=
  ⟨by decide, ends_next _ (by decide), ends_next _ (by decide), by decide⟩

theorem witness_ResponseCarriesErr :
    (ready 0x13000000#32).moves = .issue 0x13000000#32 :: [] ∧
    (∃ t, step (ready 0x13000000#32) = .next t ∧ (t.rsp == some { err := 3#4, data := 0#32 }) = true) ∧
    ∃ t, step (ready 0x13000002#32) = .next t ∧ (t.rsp == some { err := 0#4, data := 1#32 }) = true :=
  ⟨by decide, ends_next _ (by decide +kernel), ends_next _ (by decide +kernel)⟩

/-- An operation that answers a value, one that raises, and one that answers none. -/
theorem witness_ResLatchesLastValue :
    oneCodeword.err = 0#4 ∧ ReturnsValue (.gfAdd 1#8 2#8) ∧ ¬ ReturnsValue .sysNop ∧
    (∃ t, exec (.gfAdd 1#8 2#8) oneCodeword = .next t ∧ (t.err == 0#4) = true) ∧
    (∃ t, exec (.fmtBch 32#8) oneCodeword = .next t ∧ decide (t.err ≠ 0#4) = true) ∧
    ∃ t, exec .sysNop oneCodeword = .next t ∧ (t.err == 0#4) = true :=
  ⟨by decide, trivial, fun h => h, ends_next _ (by decide), ends_next _ (by decide), ends_next _ (by decide)⟩

/-- A writer of each field, which changes it. -/
theorem witness_WritersOfEachField :
    (after .rsClr placing).k ≠ placing.k ∧ (after (.rsPush 1#8) placing).dbuf ≠ placing.dbuf ∧
    (after (.rsSetn 2#8) placing).n ≠ placing.n ∧ (after (.rsSetn 2#8) placing).genv ≠ placing.genv ∧
    (after .rsGen { State.reset with n := 1#8 }).gen ≠ [] ∧ (after .rsClr placing).remv ≠ placing.remv ∧
    (after .rsEnc { oneCodeword with rem := [] }).rem ≠ [] ∧ (after (.zzSetver 2#8) placing).ver ≠ placing.ver ∧
    (after (.zzFix 0#8 0#8) placing).fixed ≠ placing.fixed ∧ (after (.zzFix 0#8 0#8) placing).zst ≠ placing.zst ∧
    (after (.zzStart 0#8) placing).zmode ≠ placing.zmode ∧ (after (.zzStart 0#8) placing).zt ≠ placing.zt ∧
    (after .zzNext placing).zidx ≠ placing.zidx ∧ (after .zzNext placing).zh ≠ placing.zh ∧
    (after (.zzSetver 2#8) drained).zp ≠ drained.zp := by decide +kernel

/-- A step from a state that meets the invariants: one that advances a place-mode traversal, one that ends a traversal, one that
pushes a codeword. -/
theorem witness_InvariantKept :
    (Inv { placing with moves := [.issue 0x33000000#32] } ∧
      ∃ t, step { placing with moves := [.issue 0x33000000#32] } = .next t ∧ (t.zidx == 3#16) = true) ∧
    (Inv { drained with moves := [.issue 0x33000000#32] } ∧
      ∃ t, step { drained with moves := [.issue 0x33000000#32] } = .next t ∧ (t.zst == .done) = true) ∧
    Inv { oneCodeword with moves := [.issue 0x230000FF#32] } ∧
      ∃ t, step { oneCodeword with moves := [.issue 0x230000FF#32] } = .next t ∧ (t.k == 2#8) = true :=
  ⟨⟨inv_of [0x20#8] (by decide +kernel), ends_next _ (by decide +kernel)⟩,
    ⟨inv_of [] (by decide +kernel), ends_next _ (by decide +kernel)⟩, inv_of [0x20#8] (by decide +kernel),
    ends_next _ (by decide +kernel)⟩

theorem witness_StepAlwaysAnswers : Inv { placed with moves := [.issue 0x33000000#32] } := inv_of [0x20#8] (by decide +kernel)

/-- Canonical spaces with cells in each, and a step that writes each. -/
theorem witness_SpacesStayCanonical :
    Canonical { placing with fixed := fixedCorner.fixed, moves := [.issue 0x31000000#32] } ∧
    (∃ t, step { placing with fixed := fixedCorner.fixed, moves := [.issue 0x31000000#32] } = .next t ∧
      decide (t.fixed = [(0, 1#1), (planeIndex 0 6, 1#1), (planeIndex 20 20, 1#1)]) = true) ∧
    Canonical { oneCodeword with moves := [.issue 0x24000000#32] } ∧
    ∃ t, step { oneCodeword with moves := [.issue 0x24000000#32] } = .next t ∧ (t.rem == [(0, 0x20#8)]) = true :=
  ⟨by decide, ends_next _ (by decide), by decide, ends_next _ (by decide +kernel)⟩

theorem witness_ResetLeavesResetState : { failed with moves := [.rst, .take] }.moves = .rst :: [.take] := by decide

theorem witness_SysRdregResult :
    (9#8).toNat ≤ 9 ∧ 9 < (10#8).toNat ∧ 9 < (255#8).toNat ∧ State.reset.cfg.Valid ∧ placing.cfg.Valid := by decide

/-- Both clauses at 511 and 512. -/
theorem witness_GfExpResult : (511#16).toNat ≤ 511 ∧ 511 < (512#16).toNat := by decide

theorem witness_GfLogResult : (0#8 : Byte) = 0#8 ∧ (1#8 : Byte) ≠ 0#8 ∧ (255#8 : Byte) ≠ 0#8 := by decide

theorem witness_GfPowResult : (142#8 : Byte) ≠ 0#8 ∧ gfmul 142#8 (gfpow 142#8 254) = 1#8 := by decide +kernel

/-- The first and the last index of each clause, with the values R121 and R122 print. -/
theorem witness_ExpTableRecurrence :
    gfexp 1 = 2#8 ∧ gfexp 8 = 29#8 ∧ gfexp 254 = 0x8E#8 ∧ gfexp 255 = 1#8 ∧ gfexp 511 = 2#8 := by decide +kernel

theorem witness_ExpLogTables : (1#8 : Byte) ≠ 0#8 ∧ 511 ≤ 511 ∧ gfexp 0 = 1#8 ∧ gfexp 254 = 142#8 := by decide +kernel

theorem witness_LogInvertsExp : gflog 142#8 = some 254 ∧ gflog 0#8 = none ∧ gfexp 254 = gfexp (2 * 127) := by decide +kernel

/-- Both operands with the largest logarithm, a zero operand, and two nonzero ones. -/
theorem witness_MulByLogs :
    gflog 142#8 = some 254 ∧ ((0#8 : Byte) = 0#8 ∨ (5#8 : Byte) = 0#8) ∧ (142#8 : Byte) ≠ 0#8 := by decide +kernel

theorem witness_FieldLaws : gflog 142#8 = some 254 ∧ gflog 1#8 = some 0 ∧ gfmul 0#8 7#8 = 0#8 := by decide +kernel

theorem witness_PowIsRepeatedMul : gflog 142#8 = some 254 := by decide +kernel

/-- Both clauses at the boundaries 0, 1, N_MAX and above it, with N_MAX = 10 as well as the default. -/
theorem witness_RsSetnResult :
    (0#8 : Byte) = 0#8 ∧ { State.reset with cfg := { kMax := 16, nMax := 10, vMax := 1 } }.cfg.nMax < (11#8).toNat ∧
    ((10#8 : Byte) ≠ 0#8 ∧ (10#8).toNat ≤ { State.reset with cfg := { kMax := 16, nMax := 10, vMax := 1 } }.cfg.nMax) ∧
    (255#8).toNat ≤ placing.cfg.nMax := by decide

theorem witness_RsGenResult :
    State.reset.n = 0#8 ∧ oneCodeword.n ≠ 0#8 ∧ Memory.wf unlistedByte oneCodeword.gen = true := by decide

/-- A full buffer, and one with a single cell left. -/
theorem witness_RsPushResult :
    { State.reset with k := 255#8 }.k.toNat = State.reset.cfg.kMax ∧
    { State.reset with k := 254#8 }.k.toNat < State.reset.cfg.kMax ∧ State.reset.cfg.Valid ∧
    Memory.wf unlistedByte State.reset.dbuf = true ∧ Memory.wf unlistedByte oneCodeword.dbuf = true := by decide

theorem witness_RsEncResult :
    State.reset.genv = false ∧ { oneCodeword with k := 0#8 }.k = 0#8 ∧
    (oneCodeword.genv = true ∧ oneCodeword.k ≠ 0#8 ∧ Memory.wf unlistedByte oneCodeword.rem = true ∧
      readCells oneCodeword.dbuf 0 oneCodeword.k.toNat = some [0x20#8] ∧
      readCells oneCodeword.gen 0 (oneCodeword.n.toNat + 1) = some (genpoly oneCodeword.n.toNat)) := by decide +kernel

/-- Each clause at its boundary: N = 1, K = 1, so the last good index is 1 for GEN and 0 for REM and DBUF. -/
theorem witness_RsCellReads :
    State.reset.genv = false ∧ (oneCodeword.genv = true ∧ oneCodeword.n.toNat < (2#8).toNat) ∧
    ((1#8).toNat ≤ oneCodeword.n.toNat ∧ Memory.read unlistedByte oneCodeword.gen (1#8).toNat = some 1#8) ∧
    State.reset.remv = false ∧ (oneCodeword.remv = true ∧ oneCodeword.n.toNat ≤ (1#8).toNat) ∧
    ((0#8).toNat < oneCodeword.n.toNat ∧ Memory.read unlistedByte oneCodeword.rem (0#8).toNat = some 0x20#8) ∧
    oneCodeword.k.toNat ≤ (1#8).toNat ∧
    ((0#8).toNat < oneCodeword.k.toNat ∧ Memory.read unlistedByte oneCodeword.dbuf (0#8).toNat = some 0x20#8) := by decide

/-- The first and the last bit, in each of the two spaces, and the first index out of range. -/
theorem witness_RsRdbitResult :
    State.reset.remv = false ∧ oneCodeword.remv = true ∧ 8 * (oneCodeword.k.toNat + oneCodeword.n.toNat) ≤ (16#16).toNat ∧
    (15#16).toNat < 8 * (oneCodeword.k.toNat + oneCodeword.n.toNat) ∧
    codeword oneCodeword ((15#16).toNat / 8) = some 0x20#8 ∧ codeword oneCodeword ((0#16).toNat / 8) = some 0x20#8 := by decide

theorem witness_GenpolyShape : (genpoly 3).getD 3 0#8 = 8#8 ∧ 1 ≤ 3 ∧ 3 ≤ 3 := by decide +kernel

theorem witness_PolymulIsProduct : [1#8, 1#8] ≠ [] ∧ [1#8, 2#8] ≠ [] ∧ polymul [1#8, 1#8] [1#8, 2#8] = [1#8, 3#8, 2#8] := by
  decide +kernel

theorem witness_RemainderMakesCodeword : 4 < 5 ∧ polyEval ([1#8] ++ rsrem [1#8] 5) (gfexp 4) = 0#8 := by decide +kernel

theorem witness_RemainderIsLinear : [1#8, 2#8].length = [0#8, 7#8].length := by decide

theorem witness_RecomputingChangesNothing : Inv placing ∧ placing.remv = true := ⟨witness_inv.2.2.2.2.1, by decide⟩

/-- Each clause at its boundary: versions 0, 1, V_MAX = 40 and 41. -/
theorem witness_ZzSetverResult :
    (0#8 : Byte) = 0#8 ∧ started.cfg.vMax < (41#8).toNat ∧
    ((1#8 : Byte) ≠ 0#8 ∧ (40#8 : Byte) ≠ 0#8 ∧ (40#8).toNat ≤ started.cfg.vMax ∧ started.cfg.Valid) := by decide

/-- Each clause at its boundary: row or column 20 and 21 of side 21. -/
theorem witness_ZzFixResult :
    State.reset.ver = 0#6 ∧ started.ver ≠ 0#6 ∧ sideOfVersion started.ver.toNat ≤ (21#8).toNat ∧
    ((20#8).toNat < sideOfVersion started.ver.toNat ∧ Memory.wf unlistedFixed started.fixed = true ∧
      Memory.wf unlistedFixed fixedCorner.fixed = true) := by decide

/-- Every branch of the chain: mode 2, no version, no remainder, too many bits (8*53 = 424), and both modes starting. -/
theorem witness_ZzStartResult :
    1 < (2#8).toNat ∧ State.reset.ver = 0#6 ∧ started.remv = false ∧
    zzcount (sideOfVersion placing.ver.toNat) (isFixed placing) = 420 ∧
    420 < 8 * ({ placing with k := 52#8 }.k.toNat + placing.n.toNat) ∧ 8 * (placing.k.toNat + placing.n.toNat) ≤ 420 := by
  decide +kernel

/-- Each clause: IDLE, DONE, RUN in each mode with a position left (a bit of the string, the first past it), RUN with none left. -/
theorem witness_ZzNextFollowsSequence :
    (Inv (ready 0#32) ∧ (ready 0#32).zst = .idle) ∧ (Inv finished ∧ finished.zst = .done) ∧
    (Inv started ∧ started.zst = .run ∧
      (zzseq (sideOfVersion started.ver.toNat) (isFixed started))[started.zidx.toNat]? = some (20, 20)) ∧
    (Inv placing ∧ (zzseq (sideOfVersion placing.ver.toNat) (isFixed placing))[placing.zidx.toNat]? = some (19, 20) ∧
      placing.zmode = true ∧ placing.zidx.toNat < 8 * (placing.k.toNat + placing.n.toNat)) ∧
    (Inv placed ∧ (zzseq (sideOfVersion placed.ver.toNat) (isFixed placed))[placed.zidx.toNat]? = some (12, 20) ∧
      8 * (placed.k.toNat + placed.n.toNat) ≤ placed.zidx.toNat) ∧
    (Inv drained ∧ drained.zst = .run ∧
      (zzseq (sideOfVersion drained.ver.toNat) (isFixed drained))[drained.zidx.toNat]? = none) := by
  obtain ⟨h1, h2, h3, h4, h5, h6, -, -⟩ := witness_inv
  refine ⟨⟨h1, ?_⟩, ⟨h4, ?_⟩, ⟨h2, ?_⟩, ⟨h5, ?_⟩, ⟨h6, ?_⟩, h3, ?_⟩ <;> decide +kernel

/-- Without and with a version; a cell of the plane that is 1, one that is 0, and the first row outside. -/
theorem witness_ZzCountAndRdfixResults :
    State.reset.ver = 0#6 ∧ fixedCorner.ver ≠ 0#6 ∧ sideOfVersion fixedCorner.ver.toNat ≤ (21#8).toNat ∧
    ¬ sideOfVersion fixedCorner.ver.toNat ≤ (20#8).toNat ∧
    Memory.read unlistedFixed fixedCorner.fixed (planeIndex 20 20) = some 1#1 := by decide

/-- An operation that aborts in place mode only, in both modes; one that aborts in every mode; one that never does. -/
theorem witness_AbortReturnsToIdle :
    (placing.err = 0#4 ∧ placing.zst ≠ .idle ∧
      ∃ t, exec (.rsPush 1#8) placing = .next t ∧ (t.err == 0#4 && t.zst == .idle) = true) ∧
    (started.zst ≠ .idle ∧ ∃ t, exec (.rsPush 1#8) started = .next t ∧ (t.err == 0#4 && t.zst == .run) = true) ∧
    (∃ t, exec (.zzFix 0#8 0#8) finished = .next t ∧ (t.err == 0#4 && t.zst == .idle) = true) ∧
    ∃ t, exec .rsEnc placing = .next t ∧ (t.err == 0#4 && t.zst == .run) = true :=
  ⟨⟨by decide, by decide, ends_next _ (by decide)⟩, ⟨by decide, ends_next _ (by decide)⟩, ends_next _ (by decide),
    ends_next _ (by decide +kernel)⟩

/-- The smallest version, with its first and last cell and a cell of column 6. -/
theorem witness_SequenceVisitsOnce :
    1 ≤ 1 ∧ (20, 0) ∈ (probes (sideOfVersion 1)).map (cellAt (sideOfVersion 1)) ∧
    (0, 6) ∉ (probes (sideOfVersion 1)).map (cellAt (sideOfVersion 1)) ∧
    (0, 5) ∈ zzseq (sideOfVersion 1) (fun _ _ => false) := by decide +kernel

/-- R201: 420 cells for version 1; the largest version the parameters allow, 59, has side 253 and at most 63756. -/
theorem witness_SequenceLengthIsCount :
    1 ≤ 1 ∧ 59 ≤ 59 ∧ sideOfVersion 59 * (sideOfVersion 59 - 1) = 63756 ∧ zzcount (sideOfVersion 1) (fun _ _ => false) = 420 := by
  decide +kernel

/-- The first probe of version 1 and the last. -/
theorem witness_AdvanceWalksProbes :
    1 ≤ 1 ∧ (probes (sideOfVersion 1))[0]? = some { pair := 0, step := 0, left := false } ∧
    (probes (sideOfVersion 1))[419]? = some { pair := 9, step := 20, left := true } := by decide +kernel

/-- R191: the ten pairs of side 21; the last pair and the last step. -/
theorem witness_PairsSkipColumnSix :
    1 ≤ 1 ∧ 9 < (sideOfVersion 1 - 1) / 2 ∧ 20 < sideOfVersion 1 ∧ 8 + 1 < (sideOfVersion 1 - 1) / 2 ∧
    (List.range 10).map (rightCol (sideOfVersion 1)) = [20, 18, 16, 14, 12, 10, 8, 5, 3, 1] := by decide

/-- Each clause at its boundary: selectors 3 and 4, masks 7 and 8. -/
theorem witness_FmtEncResult :
    3 < (4#8).toNat ∧ ((3#8).toNat ≤ 3 ∧ 7 < (8#8).toNat) ∧
    [0b01, 0b00, 0b11, 0b10][(3#8).toNat]? = some 0b10 ∧ (7#8).toNat ≤ 7 := by decide

/-- Each clause at its boundary: payloads 31 and 32, and two payloads that differ. -/
theorem witness_FmtBchResult : 31 < (32#8).toNat ∧ (31#8).toNat ≤ 31 ∧ 31 < 32 ∧ 30 < 32 ∧ 31 ≠ 30 := by decide

end Sys2Proof.Tests
end

section
/-!
PROOFS. What every operation can do, said once: the fields it writes (`Update`) and the way it ends (`Ends`). The statements over
all operations (the response, RES, the writers of each field, the invariants) go through the two.
-/

namespace Sys2Proof.Machine

open Sys2Proof.Spec

variable {s t u : State} {i : Instr}

/-- What a completed operation writes beside ERR, RES and the response, with what its checks have made sure of. -/
inductive Update (s : State) : Instr → State → Prop where
  | none {i : Instr} (hi : i ≠ .sysReset) : Update s i s
  | reset : Update s .sysReset (resetState s)
  | setn {b : Byte} (hb : b.toNat ≤ s.cfg.nMax) :
      Update s (.rsSetn b) (dropRemainder { s with n := b, genv := false })
  | gen (hn : s.n ≠ 0#8) :
      Update s .rsGen { s with gen := writeCells s.gen 0 (genpoly s.n.toNat), genv := true }
  | clr : Update s .rsClr (dropRemainder { s with k := 0#8 })
  | push {b : Byte} (hk : s.k.toNat ≠ s.cfg.kMax) :
      Update s (.rsPush b)
        (dropRemainder { s with dbuf := Memory.write unlistedByte s.dbuf s.k.toNat b, k := s.k + 1#8 })
  | enc {data g : List Byte} (hg : s.genv = true) (hk : s.k ≠ 0#8)
      (hdata : readCells s.dbuf 0 s.k.toNat = some data) (hgen : readCells s.gen 0 (s.n.toNat + 1) = some g) :
      Update s .rsEnc { s with rem := writeCells s.rem 0 (rsremBy g data s.n.toNat), remv := true }
  | setver {b : Byte} (hb : b.toNat ≤ s.cfg.vMax) :
      Update s (.zzSetver b)
        (rewind { s with ver := b.setWidth 6, fixed := clearPlane s.fixed (size b.toNat), zst := .idle, zmode := false })
  | fix {a b : Byte} (hv : s.ver ≠ 0#6) (ha : a.toNat < sideOf s) (hb : b.toNat < sideOf s) :
      Update s (.zzFix a b) { s with fixed := fixCell s.fixed a.toNat b.toNat, zst := .idle }
  | start {b : Byte} (hv : s.ver ≠ 0#6) (hb : b = 1#8 → s.remv = true ∧ bitLength s ≤ countOf s) :
      Update s (.zzStart b) (rewind { s with zmode := b == 1#8, zst := .run })
  | exhaust {c : Cursor} (hz : s.zst = .run)
      (hc : scan (sideOf s) (isFixed s) (scanFuel (sideOf s)) (cursorOf s) = .atEnd c) :
      Update s .zzNext { setCursor c s with zst := .done }
  | emit {p : Nat × Nat} {c : Cursor} (hz : s.zst = .run)
      (hc : scan (sideOf s) (isFixed s) (scanFuel (sideOf s)) (cursorOf s) = .found p c) :
      Update s .zzNext { setCursor c s with zidx := s.zidx + 1#16 }

/-- The three ways an operation ends (00_scope R13): `raise`, `respond()` and `respond(v)`; SYS.RESET never raises (44_system R251). -/
inductive Ends (s : State) (i : Instr) : State → Prop where
  | raised (e : ErrorCode) (hi : i ≠ .sysReset) : Ends s i (raiseState e s)
  | acked {u : State} (hu : Update s i u) (hr : ¬ ReturnsValue i) : Ends s i (ackState u)
  | responded {u : State} (v : Word) (hu : Update s i u) (hr : ReturnsValue i) : Ends s i (respondState v u)

/-- An operation that only answers a value. -/
theorem Ends.value (v : Word) (hr : ReturnsValue i) (hi : i ≠ .sysReset) : Ends s i (respondState v s) :=
  .responded v (.none hi) hr

/-- Every operation that answers a next state ends in one of the three ways, with its own update. -/
theorem exec_ends (h : exec i s = .next t) : Ends s i t := by
  cases i with
  | sysNop => obtain rfl := execSysNop_cases h; exact .acked (.none nofun) nofun
  | sysReset => obtain rfl := execSysReset_cases h; exact .acked .reset nofun
  | sysRdreg b =>
    obtain ⟨_, rfl⟩ | ⟨v, _, rfl⟩ := execSysRdreg_cases h
    · exact .raised _ nofun
    · exact .value _ trivial nofun
  | gfAdd a b => obtain rfl := execGfAdd_cases h; exact .value _ trivial nofun
  | gfMul a b => obtain rfl := execGfMul_cases h; exact .value _ trivial nofun
  | gfExp w =>
    obtain ⟨_, rfl⟩ | ⟨_, rfl⟩ := execGfExp_cases h
    · exact .raised _ nofun
    · exact .value _ trivial nofun
  | gfLog b =>
    obtain ⟨_, rfl⟩ | ⟨_, _, rfl⟩ := execGfLog_cases h
    · exact .raised _ nofun
    · exact .value _ trivial nofun
  | gfPow a b => obtain rfl := execGfPow_cases h; exact .value _ trivial nofun
  | rsSetn b =>
    obtain ⟨_, rfl⟩ | ⟨_, hb, rfl⟩ := execRsSetn_cases h
    · exact .raised _ nofun
    · exact .acked (.setn hb) nofun
  | rsGen =>
    obtain ⟨_, rfl⟩ | ⟨hn, rfl⟩ := execRsGen_cases h
    · exact .raised _ nofun
    · exact .acked (.gen hn) nofun
  | rsClr => obtain rfl := execRsClr_cases h; exact .acked .clr nofun
  | rsPush b =>
    obtain ⟨_, rfl⟩ | ⟨hk, rfl⟩ := execRsPush_cases h
    · exact .raised _ nofun
    · exact .acked (.push hk) nofun
  | rsEnc =>
    obtain ⟨_, rfl⟩ | ⟨hg, hk, data, g, hdata, hgen, rfl⟩ := execRsEnc_cases h
    · exact .raised _ nofun
    · exact .acked (.enc hg hk hdata hgen) nofun
  | rsRdgen b =>
    obtain ⟨_, rfl⟩ | ⟨_, _, rfl⟩ | ⟨_, _, v, _, rfl⟩ := execRsRdgen_cases h
    · exact .raised _ nofun
    · exact .raised _ nofun
    · exact .value _ trivial nofun
  | rsRdrem b =>
    obtain ⟨_, rfl⟩ | ⟨_, _, rfl⟩ | ⟨_, _, v, _, rfl⟩ := execRsRdrem_cases h
    · exact .raised _ nofun
    · exact .raised _ nofun
    · exact .value _ trivial nofun
  | rsRddat b =>
    obtain ⟨_, rfl⟩ | ⟨_, v, _, rfl⟩ := execRsRddat_cases h
    · exact .raised _ nofun
    · exact .value _ trivial nofun
  | rsRdbit w =>
    obtain ⟨_, rfl⟩ | ⟨_, _, rfl⟩ | ⟨_, _, v, _, rfl⟩ := execRsRdbit_cases h
    · exact .raised _ nofun
    · exact .raised _ nofun
    · exact .value _ trivial nofun
  | zzSetver b =>
    obtain ⟨_, rfl⟩ | ⟨_, hb, rfl⟩ := execZzSetver_cases h
    · exact .raised _ nofun
    · exact .responded _ (.setver hb) trivial
  | zzFix a b =>
    obtain ⟨_, rfl⟩ | ⟨_, _, rfl⟩ | ⟨hv, ha, hb, rfl⟩ := execZzFix_cases h
    · exact .raised _ nofun
    · exact .raised _ nofun
    · exact .acked (.fix hv ha hb) nofun
  | zzStart b =>
    obtain ⟨_, rfl⟩ | ⟨_, _, rfl⟩ | ⟨_, _, _, _, rfl⟩ | ⟨_, hv, hb, rfl⟩ := execZzStart_cases h
    · exact .raised _ nofun
    · exact .raised _ nofun
    · exact .raised _ nofun
    · exact .responded _ (.start hv hb) trivial
  | zzNext =>
    obtain ⟨_, rfl⟩ | ⟨_, rfl⟩ | ⟨hz, c, hc, rfl⟩ | ⟨hz, p, c, v, hc, _, rfl⟩ := execZzNext_cases h
    · exact .raised _ nofun
    · exact .value _ trivial nofun
    · exact .responded _ (.exhaust hz hc) trivial
    · exact .responded _ (.emit hz hc) trivial
  | zzCount =>
    obtain ⟨_, rfl⟩ | ⟨_, rfl⟩ := execZzCount_cases h
    · exact .raised _ nofun
    · exact .value _ trivial nofun
  | zzRdfix a b =>
    obtain ⟨_, rfl⟩ | ⟨_, _, rfl⟩ | ⟨_, _, _, rfl⟩ := execZzRdfix_cases h
    · exact .raised _ nofun
    · exact .raised _ nofun
    · exact .value _ trivial nofun
  | fmtEnc a b =>
    obtain ⟨_, rfl⟩ | ⟨_, _, ⟨_, rfl⟩ | ⟨_, rfl⟩⟩ := execFmtEnc_cases h
    · exact .raised _ nofun
    · exact .raised _ nofun
    · exact .value _ trivial nofun
  | fmtBch b =>
    obtain ⟨_, rfl⟩ | ⟨_, rfl⟩ := execFmtBch_cases h
    · exact .raised _ nofun
    · exact .value _ trivial nofun

/-- No update but the reset writes ERR. -/
theorem Update.err_eq (h : Update s i u) (hi : i ≠ .sysReset) : u.err = s.err := by
  cases h with
  | reset => exact absurd rfl hi
  | _ => simp

/-- No update but the reset writes RES. -/
theorem Update.res_eq (h : Update s i u) (hi : i ≠ .sysReset) : u.res = s.res := by
  cases h with
  | reset => exact absurd rfl hi
  | _ => simp

/-- A command that runs finds ERR = 0 or makes it so (60_exceptions R273), so its update is made with ERR = 0. -/
theorem Update.err_eq_zero (h : Update s i u) (hs : s.err = 0#4 ∨ i = .sysReset) : u.err = 0#4 := by
  by_cases hi : i = .sysReset
  · subst hi; cases h with
    | none hi => exact absurd rfl hi
    | reset => rfl
  · rw [h.err_eq hi]; exact hs.resolve_right hi

/-- A response presented carries ERR, and no data with an error (10_state R47). -/
def Answered (t : State) : Prop :=
  ∃ r, t.rsp = some r ∧ r.err = t.err ∧ (r.err ≠ 0#4 → r.data = 0#32)

/-- Every operation that runs is answered. -/
theorem Ends.answered (h : Ends s i t) (hs : s.err = 0#4 ∨ i = .sysReset) : Answered t := by
  cases h with
  | raised e => exact ⟨_, rfl, rfl, fun _ => rfl⟩
  | acked hu => exact ⟨_, rfl, (hu.err_eq_zero hs).symm, fun _ => rfl⟩
  | responded v hu => exact ⟨_, rfl, (hu.err_eq_zero hs).symm, fun h => absurd rfl h⟩

/-- Every command word is answered: ignored, illegal, or by its operation. -/
theorem transact_answered {cmd : Word} (h : transact cmd s = .next t) : Answered t := by
  obtain ⟨_, _, rfl⟩ | ⟨_, _, rfl⟩ | ⟨i, _, hs, hi⟩ := transact_cases h
  · exact ⟨_, rfl, rfl, fun _ => rfl⟩
  · exact ⟨_, rfl, rfl, fun _ => rfl⟩
  · exact (exec_ends hi).answered hs

/-- A step with a command word next is that transaction. -/
theorem step_issue {cmd : Word} {ms : List HostMove} (h : s.moves = .issue cmd :: ms) :
    step s = transact cmd { s with moves := ms } := by
  simp [step, serve, h]

/-- The state with ERR, RES and the response set: all that an operation's ending adds to its update. -/
def answerWith (e : BitVec 4) (v : Word) (p : Option Response) (u : State) : State :=
  { u with err := e, res := v, rsp := p }

/-- An ending is an update and an answer; a raise updates nothing. -/
theorem Ends.exists_update (h : Ends s i t) : ∃ u e v p, Update s i u ∧ t = answerWith e v p u := by
  cases h with
  | raised e hi => exact ⟨s, e.code, s.res, some { err := e.code, data := 0#32 }, .none hi, rfl⟩
  | @acked u hu => exact ⟨u, u.err, u.res, some { err := 0#4, data := 0#32 }, hu, rfl⟩
  | @responded u v hu => exact ⟨u, u.err, v, some { err := 0#4, data := v }, hu, rfl⟩

end Sys2Proof.Machine

namespace Sys2Proof.Proofs

open Sys2Proof.Machine Sys2Proof.Spec

/-- Settles O12: whatever the command comes to, its answer carries ERR. -/
theorem responseCarriesErr : Obligations.ResponseCarriesErr := by
  unfold Obligations.ResponseCarriesErr
  intro s t cmd ms hm h
  exact transact_answered ((step_issue hm).symm.trans h)

/-- Settles O13, by the three ways an operation ends: only `respond(v)` writes RES. -/
theorem resLatchesLastValue : Obligations.ResLatchesLastValue := by
  unfold Obligations.ResLatchesLastValue
  refine ⟨fun i s t hs hi h => ?_, fun s => rfl⟩
  cases exec_ends h with
  | raised e => exact ⟨fun he => absurd he e.code_ne_zero, fun _ => rfl⟩
  | acked hu hr => exact ⟨fun _ hv => absurd hv hr, fun _ => hu.res_eq hi⟩
  | responded v hu hr =>
    refine ⟨fun _ _ => rfl, fun hn => ?_⟩
    exact hn.elim (fun he => absurd (hu.err_eq_zero (.inl hs)) he) (absurd hr)

/-- Settles O14: an answer changes none of these fields, and each update writes those of its own operation. -/
theorem writersOfEachField : Obligations.WritersOfEachField := by
  unfold Obligations.WritersOfEachField
  intro i s t h hi
  obtain ⟨u, e, v, p, hu, rfl⟩ := (exec_ends h).exists_update
  cases hu with
  | reset => exact absurd rfl hi
  | _ => simp [answerWith]

end Sys2Proof.Proofs
end

section
/-!
PROOFS. The traversal order (42_zigzag R190 to R196, R210, R212): a cursor's rank is its place in the list of probes, advancing adds 1
to it, the writable cells before a cursor are those of the probes of lower rank, and the probes visit each cell outside column 6
once.
-/

namespace Sys2Proof.Machine

/-! ## Ranks -/

/-- The number of probes before a cursor of the grid, and the number of all probes for a cursor at the end. -/
def Cursor.rank (side : Nat) (c : Cursor) : Nat := 2 * (side * c.pair + c.step) + c.left.toNat

/-- The probes of one column pair, ranked. -/
theorem rank_pairProbes (side j : Nat) : ∀ m : Nat,
    ((List.range m).flatMap fun t => [Cursor.mk j t false, Cursor.mk j t true]).map (Cursor.rank side) =
      List.range' (2 * (side * j)) (2 * m)
  | 0 => rfl
  | m + 1 => by
    rw [List.range_succ, List.flatMap_append, List.map_append, rank_pairProbes side j m,
      show 2 * (m + 1) = 2 * m + 2 by omega, ← List.range'_append]
    simp [Cursor.rank, List.range']
    omega

/-- The probes of the first `n` column pairs, ranked. -/
theorem rank_firstPairs (side : Nat) : ∀ n : Nat,
    ((List.range n).flatMap fun j => (List.range side).flatMap fun t =>
      [Cursor.mk j t false, Cursor.mk j t true]).map (Cursor.rank side) = List.range (2 * (side * n))
  | 0 => rfl
  | n + 1 => by
    rw [List.range_succ, List.flatMap_append, List.map_append, rank_firstPairs side n, List.flatMap_singleton,
      rank_pairProbes, Nat.mul_succ, Nat.mul_add, List.range_eq_range', List.range_eq_range', ← List.range'_append]
    simp

/-- The probes in their order have the ranks 0, 1, 2, ... (42_zigzag R193). -/
theorem rank_probes (side : Nat) :
    (probes side).map (Cursor.rank side) = List.range (2 * (side * pairCount side)) := rank_firstPairs side _

@[simp] theorem length_probes (side : Nat) : (probes side).length = 2 * (side * pairCount side) := by
  simpa using congrArg List.length (rank_probes side)

/-- The probes are the cursors of the grid (42_zigzag R193, R210). -/
@[simp] theorem mem_probes {side : Nat} {c : Cursor} : c ∈ probes side ↔ c.onGrid side := by
  obtain ⟨j, t, _ | _⟩ := c <;> simp [probes, Cursor.onGrid]

/-- No probe is made twice. -/
theorem nodup_probes (side : Nat) : (probes side).Nodup :=
  List.Nodup.of_map (Cursor.rank side) (by rw [rank_probes]; exact List.nodup_range)

/-- The probe at place `m` has rank `m`. -/
theorem rank_of_getElem? {side m : Nat} {c : Cursor} (h : (probes side)[m]? = some c) : c.rank side = m := by
  have hm := congrArg (·[m]?) (rank_probes side)
  obtain ⟨hlt, -⟩ := List.getElem?_eq_some_iff.mp h
  simp only [List.getElem?_map, h, Option.map_some] at hm
  rw [List.getElem?_range (by simpa using hlt)] at hm
  exact Option.some.inj hm

/-- A cursor of the grid stands at the place of its rank. -/
theorem getElem?_rank {side : Nat} {c : Cursor} (h : c.onGrid side) : (probes side)[c.rank side]? = some c := by
  obtain ⟨m, hm⟩ := List.mem_iff_getElem?.mp (mem_probes.mpr h)
  rwa [rank_of_getElem? hm]

/-- Probe order is the order of the ranks, for steps inside the side. -/
theorem before_iff_rank_lt {side : Nat} {p c : Cursor} (hp : p.step < side) (hc : c.step < side) :
    p.before c = true ↔ p.rank side < c.rank side := by
  obtain ⟨j, t, a⟩ := p
  obtain ⟨j', t', b⟩ := c
  simp only at hp hc
  have hlt : ∀ {x y : Nat}, x < y → side * x + side ≤ side * y := fun h => by
    rw [← Nat.mul_succ]; exact Nat.mul_le_mul_left side h
  rcases Nat.lt_trichotomy j j' with h | rfl | h
  · have := hlt h
    have ha := Bool.toNat_lt a
    simp only [Cursor.before, Cursor.rank, h, decide_true, Bool.true_or, true_iff]
    omega
  · cases a <;> cases b <;> simp [Cursor.before, Cursor.rank] <;> omega
  · have := hlt h
    have hb := Bool.toNat_lt b
    simp only [Cursor.before, Cursor.rank, show ¬ j < j' by omega, show (j == j') = false by simp; omega,
      decide_false, Bool.false_and, Bool.or_false, Bool.false_eq_true, false_iff]
    omega

/-- Advancing goes to the next rank (42_zigzag R212). -/
theorem rank_advance {side : Nat} {c : Cursor} (hs : c.step < side) : (c.advance side).rank side = c.rank side + 1 := by
  obtain ⟨j, t, a⟩ := c
  simp only at hs
  cases a with
  | false => simp [Cursor.advance, Cursor.rank]
  | true =>
    by_cases ht : t = side - 1
    · simp only [Cursor.advance, Cursor.rank, ht, if_true, Bool.toNat_true, Bool.toNat_false, Nat.mul_succ]
      omega
    · simp only [Cursor.advance, Cursor.rank, ht, if_true, if_false, Bool.toNat_true, Bool.toNat_false]
      omega

/-- The step of a cursor stays inside the side as it advances. -/
theorem step_advance_lt {side : Nat} {c : Cursor} (hs : c.step < side) : (c.advance side).step < side := by
  unfold Cursor.advance
  split
  · split
    · exact Nat.zero_lt_of_lt hs
    · simp only; omega
  · exact hs

/-! ## Writable cells -/

/-- The cell under a probe is writable. -/
def writableAt (side : Nat) (fixed : Nat → Nat → Bool) (p : Cursor) : Bool :=
  !fixed (cellAt side p).1 (cellAt side p).2

/-- In a list ranked 0, 1, 2, ... the entries of rank below `k` are its first `k`. -/
theorem countP_rank_lt {α : Type} {rank : α → Nat} {l : List α} {n : Nat} (h : l.map rank = List.range n) (k : Nat)
    (w : α → Bool) : l.countP (fun p => decide (rank p < k) && w p) = (l.take k).countP w := by
  induction n generalizing l with
  | zero => simp [List.map_eq_nil_iff.mp h]
  | succ n ih =>
    rw [List.range_succ] at h
    obtain ⟨l', e, rfl, hl', he⟩ := List.map_eq_append_iff.mp h
    obtain ⟨x, rfl, hx⟩ := List.map_eq_singleton_iff.mp he
    have hlen : l'.length = n := by simpa using congrArg List.length hl'
    rw [List.countP_append, ih hl', List.take_append, List.countP_append, hlen]
    by_cases hk : n < k
    · rw [show k - n = (k - n - 1) + 1 by omega]
      simp [hx, hk]
    · simp [hx, hk, show k - n = 0 by omega]

/-- The writable cells before a cursor are those of the probes of lower rank (10_state R24 item 6). -/
theorem writableBefore_eq_take {side : Nat} (fixed : Nat → Nat → Bool) {c : Cursor} (hs : c.step < side) :
    writableBefore side fixed c = ((probes side).take (c.rank side)).countP (writableAt side fixed) := by
  rw [← countP_rank_lt (rank_probes side), writableBefore]
  refine List.countP_congr fun p hp => ?_
  have hb := before_iff_rank_lt (mem_probes.mp hp).2 hs
  simp [writableAt, hb]

/-- No cell comes before the first probe. -/
theorem writableBefore_first {side : Nat} (fixed : Nat → Nat → Bool) (hs : 0 < side) :
    writableBefore side fixed ⟨0, 0, false⟩ = 0 := by
  rw [writableBefore_eq_take fixed hs]
  simp [Cursor.rank]

/-- Advancing passes one cell: it counts if it is writable. -/
theorem writableBefore_advance {side : Nat} (fixed : Nat → Nat → Bool) {c : Cursor} (h : c.onGrid side) :
    writableBefore side fixed (c.advance side) =
      writableBefore side fixed c + if writableAt side fixed c then 1 else 0 := by
  rw [writableBefore_eq_take fixed (step_advance_lt h.2), writableBefore_eq_take fixed h.2, rank_advance h.2,
    List.take_add_one, getElem?_rank h, List.countP_append]
  simp [List.countP_cons]

/-- At the end every writable cell has been passed: the count is the length of the sequence (42_zigzag R194). -/
theorem writableBefore_end {side : Nat} (fixed : Nat → Nat → Bool) {c : Cursor} (hp : c.pair = pairCount side)
    (hs : c.step < side) : writableBefore side fixed c = (zzseq side fixed).length := by
  have hlen : (probes side).length ≤ c.rank side := by
    rw [length_probes, Cursor.rank, hp]; omega
  rw [writableBefore_eq_take fixed hs, List.take_of_length_le hlen, zzseq, ← List.countP_eq_length_filter,
    List.countP_map]
  rfl

/-- Skipped cells are fixed, so passing them counts nothing; the step stays inside the side. -/
theorem writableBefore_skips {side : Nat} {fixed : Nat → Nat → Bool} : ∀ {m : Nat} {c : Cursor}, c.step < side →
    Skips side fixed c m → (c.advanceBy side m).step < side ∧
      writableBefore side fixed (c.advanceBy side m) = writableBefore side fixed c
  | 0, _, hs, _ => ⟨hs, rfl⟩
  | m + 1, c, hs, h => by
    obtain ⟨hg, hf⟩ : c.onGrid side ∧ fixed (cellAt side c).1 (cellAt side c).2 = true := h 0 m.succ_pos
    have hrest : Skips side fixed (c.advance side) m := fun i hi => h (i + 1) (Nat.succ_lt_succ hi)
    obtain ⟨hs', hw⟩ := writableBefore_skips (step_advance_lt hs) hrest
    refine ⟨hs', hw.trans ?_⟩
    rw [writableBefore_advance fixed hg]
    simp [writableAt, hf]

/-- A scan that comes to the end has passed fixed cells only (42_zigzag R205). -/
theorem scan_atEnd {side fuel : Nat} {fixed : Nat → Nat → Bool} {c d : Cursor} (hs : c.step < side)
    (h : scan side fixed fuel c = .atEnd d) :
    d.pair = pairCount side ∧ d.step < side ∧ writableBefore side fixed d = writableBefore side fixed c := by
  obtain ⟨m, _, hskip, ⟨_, _, _, hr⟩ | ⟨_, hend, hr⟩ | ⟨hr, _⟩⟩ := scan_cases side fixed fuel c
  · cases hr.symm.trans h
  · cases hr.symm.trans h
    exact ⟨hend, writableBefore_skips hs hskip⟩
  · cases hr.symm.trans h

/-- A scan that finds a writable cell has passed one writable cell, the last (42_zigzag R205). -/
theorem scan_found {side fuel : Nat} {fixed : Nat → Nat → Bool} {c d : Cursor} {p : Nat × Nat} (hs : c.step < side)
    (h : scan side fixed fuel c = .found p d) :
    d.pair ≤ pairCount side ∧ d.step < side ∧ writableBefore side fixed d = writableBefore side fixed c + 1 := by
  obtain ⟨m, _, hskip, ⟨_, hgrid, hfree, hr⟩ | ⟨_, _, hr⟩ | ⟨hr, _⟩⟩ := scan_cases side fixed fuel c
  · cases hr.symm.trans h
    obtain ⟨hstep, hw⟩ := writableBefore_skips hs hskip
    refine ⟨?_, step_advance_lt hstep, ?_⟩
    · rcases Cursor.advance_onGrid hgrid with hg | he
      · exact Nat.le_of_lt hg.1
      · rw [he]
    · rw [writableBefore_advance fixed hgrid, hw]
      simp [writableAt, hfree]
  · cases hr.symm.trans h
  · cases hr.symm.trans h

/-! ## The cells visited -/

section Cells

variable {side : Nat} (hodd : side % 2 = 1)

include hodd

/-- The column under a probe, counted down from the right, column 6 left out (42_zigzag R191, R193). -/
theorem col_cellAt (c : Cursor) (hc : c.pair < pairCount side) :
    (cellAt side c).2 = if 2 * c.pair + c.left.toNat + 8 ≤ side then side - 1 - (2 * c.pair + c.left.toNat)
      else side - 2 - (2 * c.pair + c.left.toNat) := by
  obtain ⟨j, t, a⟩ := c
  simp only [pairCount] at hc
  cases a <;> simp only [cellAt, rightCol, Bool.toNat_true, Bool.toNat_false, if_true, Bool.false_eq_true, if_false] <;>
    split <;> split <;> omega

/-- Different probes stand on different cells. -/
theorem cellAt_injOn {c d : Cursor} (hc : c.onGrid side) (hd : d.onGrid side) (h : cellAt side c = cellAt side d) :
    c = d := by
  have hrow : (cellAt side c).1 = (cellAt side d).1 := congrArg Prod.fst h
  have hcol : (cellAt side c).2 = (cellAt side d).2 := congrArg Prod.snd h
  rw [col_cellAt hodd c hc.1, col_cellAt hodd d hd.1] at hcol
  obtain ⟨j, t, a⟩ := c
  obtain ⟨j', t', b⟩ := d
  obtain ⟨hj, ht⟩ := hc
  obtain ⟨hj', ht'⟩ := hd
  simp only [pairCount, cellAt, rowAt] at hj ht hj' ht' hrow hcol
  have ha := Bool.toNat_lt a
  have hb := Bool.toNat_lt b
  have hq : 2 * j + a.toNat = 2 * j' + b.toNat := by
    split at hcol <;> split at hcol <;> omega
  obtain rfl : j = j' := by omega
  have hab : a.toNat = b.toNat := by omega
  obtain rfl : a = b := by revert hab; cases a <;> cases b <;> decide
  obtain rfl : t = t' := by split at hrow <;> omega
  rfl

/-- No cell is visited twice (42_zigzag R195). -/
theorem nodup_cells : ((probes side).map (cellAt side)).Nodup :=
  List.Nodup.map_on (fun _ hc _ hd h => cellAt_injOn hodd (mem_probes.mp hc) (mem_probes.mp hd) h) (nodup_probes side)

/-- The probe in row `r`, `q` columns from the right, column 6 not counted. -/
def probeAt (side r q : Nat) : Cursor :=
  { pair := q / 2, step := rowAt side (q / 2) r, left := decide (q % 2 = 1) }

theorem probeAt_onGrid {r q : Nat} (hr : r < side) (hq : q + 1 < side) : (probeAt side r q).onGrid side := by
  simp only [probeAt, Cursor.onGrid, pairCount, rowAt]
  refine ⟨by omega, ?_⟩
  split <;> omega

theorem cellAt_probeAt {r q : Nat} (hr : r < side) (hq : q + 1 < side) :
    cellAt side (probeAt side r q) = (r, if q + 8 ≤ side then side - 1 - q else side - 2 - q) := by
  have hp : (decide (q % 2 = 1)).toNat = q % 2 := by
    rcases Nat.mod_two_eq_zero_or_one q with h | h <;> simp [h]
  refine Prod.ext ?_ ?_
  · simp only [cellAt, probeAt, rowAt]
    split <;> omega
  · rw [col_cellAt hodd _ (probeAt_onGrid hodd hr hq).1]
    simp only [probeAt, hp, Nat.div_add_mod]

/-- The cells visited are those outside column 6 (42_zigzag R195). -/
theorem mem_cells (hside : 7 ≤ side) {r k : Nat} :
    (r, k) ∈ (probes side).map (cellAt side) ↔ r < side ∧ k < side ∧ k ≠ 6 := by
  constructor
  · intro h
    obtain ⟨c, hc, he⟩ := List.mem_map.mp h
    obtain ⟨hj, ht⟩ := mem_probes.mp hc
    have hrow : rowAt side c.pair c.step = r := congrArg Prod.fst he
    have hk : (cellAt side c).2 = k := congrArg Prod.snd he
    rw [col_cellAt hodd c hj] at hk
    have ha := Bool.toNat_lt c.left
    simp only [pairCount, rowAt] at hj hrow
    refine ⟨by split at hrow <;> omega, ?_⟩
    split at hk <;> omega
  · rintro ⟨hr, hk, h6⟩
    have hvisit : ∀ q, q + 1 < side → (if q + 8 ≤ side then side - 1 - q else side - 2 - q) = k →
        (r, k) ∈ (probes side).map (cellAt side) := fun q hq he =>
      List.mem_map.mpr ⟨_, mem_probes.mpr (probeAt_onGrid hodd hr hq), he ▸ cellAt_probeAt hodd hr hq⟩
    by_cases h7 : 7 ≤ k
    · exact hvisit (side - 1 - k) (by omega) (by rw [if_pos (by omega)]; omega)
    · exact hvisit (side - 2 - k) (by omega) (by rw [if_neg (by omega)]; omega)

/-- The cells outside column 6, row by row. -/
def gridCells (side : Nat) : List (Nat × Nat) := List.range side ×ˢ (List.range side).filter (· != 6)

omit hodd in
theorem nodup_gridCells : (gridCells side).Nodup :=
  List.nodup_range.product (List.nodup_range.filter _)

/-- The traversal visits the cells outside column 6 in another order (42_zigzag R195). -/
theorem cells_perm_gridCells (hside : 7 ≤ side) : ((probes side).map (cellAt side)).Perm (gridCells side) := by
  refine (List.perm_ext_iff_of_nodup (nodup_cells hodd) nodup_gridCells).mpr fun ⟨r, k⟩ => ?_
  rw [mem_cells hodd hside, gridCells, List.mem_product]
  simp

omit hodd in
/-- zzcount counts the writable cells outside column 6 (42_zigzag R196). -/
theorem zzcount_eq_countP (fixed : Nat → Nat → Bool) :
    zzcount side fixed = (gridCells side).countP fun p => !fixed p.1 p.2 := by
  simp only [zzcount, gridCells, SProd.sprod, List.product, List.countP_flatMap]
  congr 1
  refine List.map_congr_left fun r _ => ?_
  simp [Function.comp_def, List.countP_filter, Bool.and_comm]

/-- The sequence has as many cells as zzcount counts (42_zigzag R196). -/
theorem length_zzseq (hside : 7 ≤ side) (fixed : Nat → Nat → Bool) :
    (zzseq side fixed).length = zzcount side fixed := by
  rw [zzcount_eq_countP, zzseq, ← List.countP_eq_length_filter]
  exact (cells_perm_gridCells hodd hside).countP_eq _

end Cells

end Sys2Proof.Machine
end

section
/-!
PROOFS. The invariants of 10_state R24 are kept: by an answer, by each update, and so by every step.
-/

namespace Sys2Proof.Machine

variable {s t u : State} {i : Instr}

/-! ## Lengths -/

/-- genpoly(n) has n + 1 coefficients (41_reed_solomon R152). -/
@[simp] theorem length_genpoly : ∀ n : Nat, (genpoly n).length = n + 1
  | 0 => rfl
  | n + 1 => by simp [genpoly, polymul, length_genpoly n]

@[simp] theorem length_xorInto : ∀ m d : List Byte, (xorInto m d).length = m.length
  | [], [] => rfl
  | [], _ :: _ => rfl
  | _ :: _, [] => rfl
  | _ :: m, _ :: d => by simp [xorInto, length_xorInto m d]

/-- A round of the division takes the leading entry away (41_reed_solomon R153). -/
@[simp] theorem length_divStep (g m : List Byte) : (divStep g m).length = m.length - 1 := by
  cases m <;> simp [divStep]

@[simp] theorem length_divSteps (g : List Byte) : ∀ (k : Nat) (m : List Byte), (divSteps g k m).length = m.length - k
  | 0, _ => rfl
  | k + 1, m => by rw [divSteps, length_divSteps g k, length_divStep]; omega

/-- The remainder has n entries (41_reed_solomon R154 item 1). -/
@[simp] theorem length_rsremBy (g data : List Byte) (n : Nat) : (rsremBy g data n).length = n := by
  simp [rsremBy]

/-- A bulk read one cell longer. -/
theorem readCells_isSome_succ {m : Memory 8} {a n : Nat} (h : (readCells m a n).isSome = true) {v : Byte}
    (hv : Memory.read unlistedByte m (a + n) = some v) : (readCells m a (n + 1)).isSome = true := by
  obtain ⟨vs, hvs⟩ := Option.isSome_iff_exists.mp h
  obtain ⟨hlen, hread⟩ := readCells_eq_some.mp hvs
  refine Option.isSome_iff_exists.mpr ⟨vs ++ [v], readCells_eq_some.mpr ⟨by simp [hlen], fun k hk => ?_⟩⟩
  rcases Nat.lt_succ_iff_lt_or_eq.mp hk with hk | rfl
  · rw [hread k hk, List.getElem?_append_left (by omega)]
  · rw [hv, ← hlen]; simp

/-! ## The side -/

/-- SIZE of a version that is set (10_state R35). -/
theorem size_eq {ver : Nat} (h : ver ≠ 0) : size ver = 17 + 4 * ver := by
  rw [size, if_neg h]; omega

theorem sideOf_eq (hv : s.ver ≠ 0#6) : sideOf s = 17 + 4 * s.ver.toNat :=
  size_eq fun h => hv (BitVec.eq_of_toNat_eq h)

/-- Once a version is set, the side is odd and from 21 to S_MAX, 253 at most (42_zigzag R190, 00_scope R8). -/
theorem Inv.side (h : Inv s) (hv : s.ver ≠ 0#6) :
    sideOf s % 2 = 1 ∧ 21 ≤ sideOf s ∧ sideOf s ≤ s.cfg.sMax ∧ s.cfg.sMax ≤ 253 := by
  obtain ⟨-, -, -, hmax⟩ := h.params
  obtain ⟨-, -, hver⟩ := h.bounds
  have hpos : s.ver.toNat ≠ 0 := fun h0 => hv (BitVec.eq_of_toNat_eq h0)
  rw [sideOf_eq hv, Config.sMax]
  omega

/-! ## The bounds and forms of single fields -/

theorem Inv.k_le (h : Inv s) : s.k.toNat ≤ s.cfg.kMax := h.bounds.1
theorem Inv.n_le (h : Inv s) : s.n.toNat ≤ s.cfg.nMax := h.bounds.2.1
theorem Inv.ver_le (h : Inv s) : s.ver.toNat ≤ s.cfg.vMax := h.bounds.2.2

theorem Inv.dbuf_wf (h : Inv s) : Memory.wf unlistedByte s.dbuf = true := h.canonical.1
theorem Inv.gen_wf (h : Inv s) : Memory.wf unlistedByte s.gen = true := h.canonical.2.1
theorem Inv.rem_wf (h : Inv s) : Memory.wf unlistedByte s.rem = true := h.canonical.2.2.1
theorem Inv.fixed_wf (h : Inv s) : Memory.wf unlistedFixed s.fixed = true := h.canonical.2.2.2

theorem Inv.dbuf_within (h : Inv s) : Memory.within s.dbuf s.cfg.kMax = true := h.inRange.1
theorem Inv.gen_within (h : Inv s) : Memory.within s.gen (s.cfg.nMax + 1) = true := h.inRange.2.1
theorem Inv.rem_within (h : Inv s) : Memory.within s.rem s.cfg.nMax = true := h.inRange.2.2.1
theorem Inv.fixed_within (h : Inv s) : planeWithin s.fixed s.cfg.sMax = true := h.inRange.2.2.2

/-! ## Answers and moves -/

/-- The response that an answer presents fits ERR (10_state R47). -/
def Fits (e : BitVec 4) (p : Option Response) : Prop :=
  ∀ r, p = some r → r.err = e ∧ (r.err ≠ 0#4 → r.data = 0#32)

/-- The invariants speak of ERR and the response in two items only: an answer that meets those keeps all of them. -/
theorem Inv.answerWith (h : Inv s) {e : BitVec 4} (v : Word) {p : Option Response} (he : e.toNat ≤ 8) (hp : Fits e p) :
    Inv (answerWith e v p s) :=
  { h with errCode := he, response := hp }

/-- The invariants do not speak of what the host will do. -/
theorem Inv.withMoves (h : Inv s) (ms : List HostMove) : Inv { s with moves := ms } :=
  { h with }

/-- An error taken keeps the invariants. -/
theorem Inv.raiseState (h : Inv s) (e : ErrorCode) : Inv (raiseState e s) :=
  h.answerWith s.res e.code_le (by rintro _ ⟨⟩; exact ⟨rfl, fun _ => rfl⟩)

/-- A command ignored in the error state keeps the invariants. -/
theorem Inv.ignoredState (h : Inv s) : Inv (ignoredState s) :=
  h.answerWith s.res h.errCode (by rintro _ ⟨⟩; exact ⟨rfl, fun _ => rfl⟩)

/-- A response taken keeps the invariants. -/
theorem Inv.take (h : Inv s) : Inv { s with rsp := none } :=
  h.answerWith s.res h.errCode nofun

/-- `respond()` with ERR = 0 keeps the invariants. -/
theorem Inv.ackState (h : Inv s) (he : s.err = 0#4) : Inv (ackState s) :=
  h.answerWith s.res h.errCode (by rintro _ ⟨⟩; exact ⟨he.symm, fun _ => rfl⟩)

/-- `respond(v)` with ERR = 0 keeps the invariants. -/
theorem Inv.respondState (h : Inv s) (he : s.err = 0#4) (v : Word) : Inv (respondState v s) :=
  h.answerWith v h.errCode (by rintro _ ⟨⟩; exact ⟨he.symm, fun h0 => absurd rfl h0⟩)

/-! ## Updates of the Reed-Solomon fields -/

/-- The reset state meets the invariants, whatever the state before. -/
theorem inv_resetState (h : s.cfg.Valid) : Inv (resetState s) where
  params := h
  bounds := ⟨Nat.zero_le _, Nat.zero_le _, Nat.zero_le _⟩
  pushed := rfl
  generator := nofun
  remainder := nofun
  live := fun hz => absurd rfl hz
  place := fun hz => absurd rfl hz
  running := nofun
  finished := nofun
  errCode := Nat.zero_le _
  response := nofun
  canonical := ⟨rfl, rfl, rfl, rfl⟩
  inRange := ⟨rfl, rfl, rfl, rfl⟩

/-- A traversal that is still there after an abort of place mode is not in place mode and was there before (42_zigzag R216). -/
theorem zst_of_not_aborted {placeMode : Bool} {z z' : Zst} (h : (if placeMode then .idle else z) = z') (hz : z' ≠ .idle) :
    placeMode = false ∧ z = z' := by
  cases placeMode with
  | false => exact ⟨rfl, h⟩
  | true => exact absurd h.symm hz

/-- An update of the data or of N that drops the remainder keeps the invariants, if the data and the generator keep theirs
(10_state R23, 42_zigzag R216). -/
theorem Inv.dropRemainder (h : Inv s) {k n : Byte} {dbuf : Memory 8} {genv : Bool}
    (hk : k.toNat ≤ s.cfg.kMax) (hn : n.toNat ≤ s.cfg.nMax) (hpushed : (readCells dbuf 0 k.toNat).isSome = true)
    (hgen : genv = true → s.genv = true ∧ n = s.n) (hwf : Memory.wf unlistedByte dbuf = true)
    (hwithin : Memory.within dbuf s.cfg.kMax = true) :
    Inv (dropRemainder { s with k := k, n := n, dbuf := dbuf, genv := genv }) := by
  rw [dropRemainder_eq]
  exact
    { h with
      bounds := ⟨hk, hn, h.ver_le⟩
      pushed := hpushed
      generator := fun hg => by
        obtain ⟨hold, rfl⟩ := hgen hg
        exact h.generator hold
      remainder := nofun
      live := fun hz => h.live ((zst_of_not_aborted rfl hz).2.trans_ne hz)
      place := fun hz hm => absurd ((zst_of_not_aborted rfl hz).1.symm.trans hm) Bool.false_ne_true
      running := fun hz => h.running (zst_of_not_aborted hz nofun).2
      finished := fun hz => h.finished (zst_of_not_aborted hz nofun).2
      canonical := ⟨hwf, h.gen_wf, h.rem_wf, h.fixed_wf⟩
      inRange := ⟨hwithin, h.gen_within, h.rem_within, h.fixed_within⟩ }

/-- RS.SETN keeps the invariants: it drops the generator too (41_reed_solomon R155). -/
theorem Inv.setn (h : Inv s) {b : Byte} (hb : b.toNat ≤ s.cfg.nMax) :
    Inv (Machine.dropRemainder { s with n := b, genv := false }) :=
  h.dropRemainder h.k_le hb h.pushed nofun h.dbuf_wf h.dbuf_within

/-- RS.CLR keeps the invariants (41_reed_solomon R157). -/
theorem Inv.clr (h : Inv s) : Inv (Machine.dropRemainder { s with k := 0#8 }) :=
  h.dropRemainder (Nat.zero_le _) h.n_le rfl (fun hg => ⟨hg, rfl⟩) h.dbuf_wf h.dbuf_within

/-- RS.PUSH keeps the invariants: it writes the first cell above the data (41_reed_solomon R158). -/
theorem Inv.push (h : Inv s) {b : Byte} (hk : s.k.toNat ≠ s.cfg.kMax) :
    Inv (Machine.dropRemainder
      { s with dbuf := Memory.write unlistedByte s.dbuf s.k.toNat b, k := s.k + 1#8 }) := by
  obtain ⟨⟨-, hmax⟩, -, -⟩ := h.params
  have hlt : s.k.toNat < s.cfg.kMax := Nat.lt_of_le_of_ne h.k_le hk
  have hsucc : (s.k + 1#8).toNat = s.k.toNat + 1 := by
    rw [BitVec.toNat_add, BitVec.toNat_one (by decide)]; omega
  have hold : readCells (Memory.write unlistedByte s.dbuf s.k.toNat b) 0 s.k.toNat = readCells s.dbuf 0 s.k.toNat :=
    readCells_congr fun j hj => Memory.read_write_other _ (by omega)
  have hnew : Memory.read unlistedByte (Memory.write unlistedByte s.dbuf s.k.toNat b) (0 + s.k.toNat) = some b := by
    rw [Nat.zero_add]; exact Memory.read_write_same _ _ h.dbuf_wf
  have hpushed := readCells_isSome_succ (hold ▸ h.pushed) hnew
  exact h.dropRemainder (by omega) h.n_le (hsucc ▸ hpushed) (fun hg => ⟨hg, rfl⟩) (Memory.write_wf _ _ h.dbuf_wf)
    (Memory.write_within _ hlt h.dbuf_within)

/-- RS.GEN keeps the invariants: GEN[0..N] becomes genpoly(N) (41_reed_solomon R156). -/
theorem Inv.gen (h : Inv s) (hn : s.n ≠ 0#8) :
    Inv { s with gen := writeCells s.gen 0 (genpoly s.n.toNat), genv := true } := by
  have hread := readCells_writeCells (genpoly s.n.toNat) 0 h.gen_wf
  rw [length_genpoly] at hread
  have hpos : 1 ≤ s.n.toNat := Nat.pos_of_ne_zero fun h0 => hn (BitVec.eq_of_toNat_eq h0)
  have hfit : 0 + (genpoly s.n.toNat).length ≤ s.cfg.nMax + 1 := by simpa using h.n_le
  exact
    { h with
      generator := fun _ => ⟨hpos, hread⟩
      remainder := fun hr => ⟨rfl, (h.remainder hr).2⟩
      canonical := ⟨h.dbuf_wf, writeCells_wf _ _ h.gen_wf, h.rem_wf, h.fixed_wf⟩
      inRange := ⟨h.dbuf_within, writeCells_within _ hfit h.gen_within, h.rem_within, h.fixed_within⟩ }

/-- RS.ENC keeps the invariants: it divides by GEN[0..N], which is genpoly(N), so REM becomes the remainder of R24 item 3
(41_reed_solomon R159). -/
theorem Inv.enc (h : Inv s) {data g : List Byte} (hg : s.genv = true) (hk : s.k ≠ 0#8)
    (hdata : readCells s.dbuf 0 s.k.toNat = some data) (hgen : readCells s.gen 0 (s.n.toNat + 1) = some g) :
    Inv { s with rem := writeCells s.rem 0 (rsremBy g data s.n.toNat), remv := true } := by
  obtain rfl : genpoly s.n.toNat = g := Option.some.inj ((h.generator hg).2.symm.trans hgen)
  have hread := readCells_writeCells (rsremBy (genpoly s.n.toNat) data s.n.toNat) 0 h.rem_wf
  rw [length_rsremBy] at hread
  have hpos : 1 ≤ s.k.toNat := Nat.pos_of_ne_zero fun h0 => hk (BitVec.eq_of_toNat_eq h0)
  have hfit : 0 + (rsremBy (genpoly s.n.toNat) data s.n.toNat).length ≤ s.cfg.nMax := by simpa using h.n_le
  exact
    { h with
      remainder := fun _ => ⟨hg, hpos, data, hdata, hread⟩
      place := fun hz hm => ⟨rfl, (h.place hz hm).2⟩
      canonical := ⟨h.dbuf_wf, h.gen_wf, writeCells_wf _ _ h.rem_wf, h.fixed_wf⟩
      inRange := ⟨h.dbuf_within, h.gen_within, writeCells_within _ hfit h.rem_within, h.fixed_within⟩ }

/-! ## Updates of the traversal -/

/-- An update of the version, the plane and the cursor that leaves no traversal keeps the invariants, if the version and the
plane keep their bounds. -/
theorem Inv.idle (h : Inv s) {ver : BitVec 6} {fixed : Memory 1} (zmode : Bool) (zp zt : Byte) (zh : Bool)
    (zidx : BitVec 16) (hver : ver.toNat ≤ s.cfg.vMax) (hwf : Memory.wf unlistedFixed fixed = true)
    (hwithin : planeWithin fixed s.cfg.sMax = true) :
    Inv { s with ver := ver, fixed := fixed, zst := .idle, zmode := zmode, zp := zp, zt := zt, zh := zh,
                 zidx := zidx } :=
  { h with
    bounds := ⟨h.k_le, h.n_le, hver⟩
    live := fun hz => absurd rfl hz
    place := fun hz => absurd rfl hz
    running := nofun
    finished := nofun
    canonical := ⟨h.dbuf_wf, h.gen_wf, h.rem_wf, hwf⟩
    inRange := ⟨h.dbuf_within, h.gen_within, h.rem_within, hwithin⟩ }

/-- ZZ.SETVER keeps the invariants (42_zigzag R202). -/
theorem Inv.setver (h : Inv s) {b : Byte} (hb : b.toNat ≤ s.cfg.vMax) :
    Inv (rewind { s with ver := b.setWidth 6, fixed := clearPlane s.fixed (size b.toNat), zst := .idle,
                         zmode := false }) :=
  h.idle false _ _ _ _ (by rw [BitVec.toNat_setWidth]; exact (Nat.mod_le _ _).trans hb)
    (clearPlane_wf _ h.fixed_wf) (clearPlane_within _ h.fixed_within)

/-- ZZ.FIX keeps the invariants (42_zigzag R203). -/
theorem Inv.fix (h : Inv s) {a b : Byte} (hv : s.ver ≠ 0#6) (ha : a.toNat < sideOf s) (hb : b.toNat < sideOf s) :
    Inv { s with fixed := fixCell s.fixed a.toNat b.toNat, zst := .idle } := by
  obtain ⟨-, -, hmax, -⟩ := h.side hv
  exact h.idle s.zmode _ _ _ _ h.ver_le (Memory.write_wf _ _ h.fixed_wf)
    (fixCell_within (ha.trans_le hmax) (hb.trans_le hmax) b.isLt h.fixed_within)

/-- ZZ.START keeps the invariants: it starts on the first probe, with nothing emitted (42_zigzag R204). -/
theorem Inv.start (h : Inv s) {m : Bool} (hv : s.ver ≠ 0#6)
    (hm : m = true → s.remv = true ∧ bitLength s ≤ countOf s) :
    Inv (rewind { s with zmode := m, zst := .run }) := by
  obtain ⟨-, hside, -, -⟩ := h.side hv
  have hpos : 0 < sideOf s := Nat.zero_lt_of_lt hside
  exact
    { h with
      live := fun _ => hv
      place := fun _ => hm
      running := fun _ => ⟨Nat.zero_le _, hpos, (writableBefore_first _ hpos).symm⟩
      finished := nofun }

/-- The cursor registers hold a cursor of a side that fits them. -/
theorem cursorOf_setCursor {c : Cursor} (hp : c.pair < 256) (hs : c.step < 256) : cursorOf (setCursor c s) = c := by
  simp [cursorOf, Nat.mod_eq_of_lt hp, Nat.mod_eq_of_lt hs]

/-- Fewer writable cells come before a cursor than ZIDX can count (42_zigzag R201). -/
theorem writableBefore_lt {side : Nat} (fixed : Nat → Nat → Bool) (c : Cursor) (hside : side ≤ 253) :
    writableBefore side fixed c < 65536 := by
  have hle : writableBefore side fixed c ≤ 2 * (side * pairCount side) := by
    rw [← length_probes]; exact List.countP_le_length
  have hpairs : pairCount side ≤ 126 := by unfold pairCount; omega
  have hmul := Nat.mul_le_mul hside hpairs
  omega

section Next

variable (h : Inv s) (hz : s.zst = .run) {c : Cursor}

include h hz

/-- ZZ.NEXT that comes to the end keeps the invariants: all writable cells have been emitted (42_zigzag R205). -/
theorem Inv.exhaust (hc : scan (sideOf s) (isFixed s) (scanFuel (sideOf s)) (cursorOf s) = .atEnd c) :
    Inv { setCursor c s with zst := .done } := by
  have hlive : s.zst ≠ .idle := by rw [hz]; nofun
  obtain ⟨hodd, hside, -, -⟩ := h.side (h.live hlive)
  obtain ⟨-, hstep, hidx⟩ := h.running hz
  obtain ⟨hend, hstep', hw⟩ := scan_atEnd hstep hc
  have hcount : s.zidx.toNat = countOf s :=
    calc s.zidx.toNat = writableBefore (sideOf s) (isFixed s) c := hidx.trans hw.symm
      _ = (zzseq (sideOf s) (isFixed s)).length := writableBefore_end _ hend hstep'
      _ = countOf s := length_zzseq hodd (by omega) _
  exact
    { h with
      live := fun _ => h.live hlive
      place := fun _ => h.place hlive
      running := nofun
      finished := fun _ => hcount }

/-- ZZ.NEXT that emits a position keeps the invariants: one more writable cell lies before the cursor, and ZIDX counts it
(42_zigzag R205). -/
theorem Inv.emit {p : Nat × Nat} (hc : scan (sideOf s) (isFixed s) (scanFuel (sideOf s)) (cursorOf s) = .found p c) :
    Inv { setCursor c s with zidx := s.zidx + 1#16 } := by
  have hlive : s.zst ≠ .idle := by rw [hz]; nofun
  obtain ⟨-, -, hmax, hmax'⟩ := h.side (h.live hlive)
  obtain ⟨-, hstep, hidx⟩ := h.running hz
  obtain ⟨hpair, hstep', hw⟩ := scan_found hstep hc
  have hpairs : pairCount (sideOf s) ≤ 126 := by unfold pairCount; omega
  have hcur : cursorOf (setCursor c s) = c := cursorOf_setCursor (by omega) (by omega)
  have hlt := writableBefore_lt (isFixed s) c (hmax.trans hmax')
  have hsucc : (s.zidx + 1#16).toNat = s.zidx.toNat + 1 := by
    rw [BitVec.toNat_add, BitVec.toNat_one (by decide)]; omega
  have hcount : (s.zidx + 1#16).toNat = writableBefore (sideOf s) (isFixed s) (cursorOf (setCursor c s)) := by
    rw [hcur, hsucc, hidx, hw]
  exact
    { h with
      running := fun _ =>
        ⟨(congrArg Cursor.pair hcur).trans_le hpair, (congrArg Cursor.step hcur).trans_lt hstep', hcount⟩
      finished := fun hd => absurd (hz.symm.trans hd) nofun }

end Next

/-! ## A step -/

/-- Every update keeps the invariants. -/
theorem Update.inv (hu : Update s i u) (h : Inv s) : Inv u := by
  cases hu with
  | none => exact h
  | reset => exact inv_resetState h.params
  | setn hb => exact h.setn hb
  | gen hn => exact h.gen hn
  | clr => exact h.clr
  | push hk => exact h.push hk
  | enc hg hk hdata hgen => exact h.enc hg hk hdata hgen
  | setver hb => exact h.setver hb
  | fix hv ha hb => exact h.fix hv ha hb
  | start hv hb => exact h.start hv fun hm => hb (by simpa using hm)
  | exhaust hz hc => exact h.exhaust hz hc
  | emit hz hc => exact h.emit hz hc

/-- Every operation that runs keeps the invariants. -/
theorem exec_inv (h : Inv s) (hs : s.err = 0#4 ∨ i = .sysReset) (ht : exec i s = .next t) : Inv t := by
  cases exec_ends ht with
  | raised e => exact h.raiseState e
  | acked hu => exact (hu.inv h).ackState (hu.err_eq_zero hs)
  | responded v hu => exact (hu.inv h).respondState (hu.err_eq_zero hs) v

/-- Every command word keeps the invariants: ignored, illegal, or by its operation. -/
theorem transact_inv {cmd : Word} (h : Inv s) (ht : transact cmd s = .next t) : Inv t := by
  obtain ⟨_, _, rfl⟩ | ⟨_, _, rfl⟩ | ⟨i, _, hs, hi⟩ := transact_cases ht
  · exact h.ignoredState
  · exact h.raiseState _
  · exact exec_inv h hs hi

/-- Every move of the host keeps the invariants. -/
theorem step_inv (h : Inv s) (ht : step s = .next t) : Inv t := by
  obtain ⟨_, rfl⟩ | ⟨ms, _, rfl⟩ | ⟨cmd, ms, _, hcmd⟩ | ⟨ms, _, rfl⟩ := step_cases ht
  · exact h
  · exact inv_resetState h.params
  · exact transact_inv (h.withMoves ms) hcmd
  · exact (h.withMoves ms).take

end Sys2Proof.Machine

namespace Sys2Proof.Proofs

open Sys2Proof.Machine

/-- Settles O15: every move of the host keeps the invariants. -/
theorem invariantKept : Obligations.InvariantKept := by
  unfold Obligations.InvariantKept
  exact fun _ _ => step_inv

/-- Settles O16: the state after reset is the reset of itself. -/
theorem resetMeetsInvariant : Obligations.ResetMeetsInvariant := by
  unfold Obligations.ResetMeetsInvariant
  exact inv_resetState (s := State.reset) (by decide)

end Sys2Proof.Proofs
end

section
/-!
PROOFS. Every step keeps the four index spaces in canonical form: an answer and a move of the host touch none of them, and an
operation writes a space only by `Memory.write`, `writeCells` or `clearPlane`, which keep the form.
-/

namespace Sys2Proof.Machine

variable {s t u : State} {i : Instr}

/-- The reset spaces are empty, whatever the state before. -/
theorem canonical_resetState : Canonical (resetState s) := ⟨rfl, rfl, rfl, rfl⟩

/-- Dropping the remainder clears REMV and leaves the cells of REM alone. -/
theorem Canonical.dropRemainder (h : Canonical s) : Canonical (dropRemainder s) := by
  rw [dropRemainder_eq]
  exact h

/-- Every update keeps the canonical form: each writes at most one space. -/
theorem Update.canonical (hu : Update s i u) (h : Canonical s) : Canonical u := by
  have ⟨hdbuf, hgen, hrem, hfixed⟩ := h
  cases hu with
  | none | start | exhaust | emit => exact h
  | reset => exact canonical_resetState
  | setn | clr => exact Canonical.dropRemainder h
  | gen => exact ⟨hdbuf, writeCells_wf _ _ hgen, hrem, hfixed⟩
  | push => exact Canonical.dropRemainder ⟨Memory.write_wf _ _ hdbuf, hgen, hrem, hfixed⟩
  | enc => exact ⟨hdbuf, hgen, writeCells_wf _ _ hrem, hfixed⟩
  | setver => exact ⟨hdbuf, hgen, hrem, clearPlane_wf _ hfixed⟩
  | fix => exact ⟨hdbuf, hgen, hrem, Memory.write_wf _ _ hfixed⟩

/-- Every operation keeps the canonical form: its answer touches no space. -/
theorem exec_canonical (h : Canonical s) (ht : exec i s = .next t) : Canonical t := by
  obtain ⟨u, e, v, p, hu, rfl⟩ := (exec_ends ht).exists_update
  exact hu.canonical h

/-- Every command word keeps the canonical form: ignored, illegal, or by its operation. -/
theorem transact_canonical {cmd : Word} (h : Canonical s) (ht : transact cmd s = .next t) : Canonical t := by
  obtain ⟨_, _, rfl⟩ | ⟨_, _, rfl⟩ | ⟨i, _, _, hi⟩ := transact_cases ht
  · exact h
  · exact h
  · exact exec_canonical h hi

/-- Every move of the host keeps the canonical form. -/
theorem step_canonical (h : Canonical s) (ht : step s = .next t) : Canonical t := by
  obtain ⟨_, rfl⟩ | ⟨ms, _, rfl⟩ | ⟨cmd, ms, _, hcmd⟩ | ⟨ms, _, rfl⟩ := step_cases ht
  · exact h
  · exact canonical_resetState
  · exact transact_canonical (s := { s with moves := ms }) h hcmd
  · exact h

end Sys2Proof.Machine

namespace Sys2Proof.Proofs

open Sys2Proof.Machine

/-- Settles O18: every move of the host keeps the canonical form of the four spaces. -/
theorem spacesStayCanonical : Obligations.SpacesStayCanonical := by
  unfold Obligations.SpacesStayCanonical
  exact fun _ _ => step_canonical

end Sys2Proof.Proofs
end

section
/-!
PROOFS. The command word as a number (30_encoding R90 to R96, R100): its fields, a format's must-be-zero bits as those between
its operands and OPC, the word an operation encodes to. The decoder accepts exactly the words of the encoder, and exactly those
that a row of the opcode table selects.
-/

namespace Sys2Proof

/-! ## Fields and words as numbers -/

theorem toNat_cmdOpc (cmd : Word) : (cmdOpc cmd).toNat = cmd.toNat / 2 ^ 24 := by
  simp only [cmdOpc, BitVec.extractLsb'_toNat, Nat.shiftRight_eq_div_pow]
  omega

theorem toNat_cmdA (cmd : Word) : (cmdA cmd).toNat = cmd.toNat / 2 ^ 8 % 2 ^ 8 := by
  simp only [cmdA, BitVec.extractLsb'_toNat, Nat.shiftRight_eq_div_pow]

theorem toNat_cmdB (cmd : Word) : (cmdB cmd).toNat = cmd.toNat % 2 ^ 8 := by
  simp [cmdB, BitVec.extractLsb'_toNat]

theorem toNat_cmdW (cmd : Word) : (cmdW cmd).toNat = cmd.toNat % 2 ^ 16 := by
  simp [cmdW, BitVec.extractLsb'_toNat]

/-- Two bit vectors side by side, as a number. -/
theorem toNat_append_eq_add {m n : Nat} (x : BitVec m) (y : BitVec n) : (x ++ y).toNat = x.toNat * 2 ^ n + y.toNat := by
  rw [BitVec.toNat_append, ← Nat.shiftLeft_add_eq_or_of_lt y.isLt, Nat.shiftLeft_eq]

theorem toNat_append_bytes (a b : Byte) : (a ++ b : Half).toNat = a.toNat * 2 ^ 8 + b.toNat := toNat_append_eq_add a b

theorem toNat_encode (i : Instr) : (encode i).toNat = (opcOf i).toNat * 2 ^ 24 + (operandBits i).toNat := by
  rw [encode, toNat_append_eq_add, toNat_append_eq_add]
  simp

/-! ## Formats -/

/-- How many low bits of the word a format uses for its operands (R91). -/
def Format.operandWidth : Format → Nat
  | .z0 => 0
  | .b => 8
  | .ab | .w => 16

/-- Bits 15:0 of a word of the format with operands a and b, or w (R91). -/
def Format.operands (a b : Byte) (w : Half) : Format → Half
  | .z0 => 0#16
  | .b => 0#8 ++ b
  | .ab => a ++ b
  | .w => w

/-- The operand fields of a word, put together again, are its low bits. -/
theorem toNat_operands (f : Format) (cmd : Word) :
    (f.operands (cmdA cmd) (cmdB cmd) (cmdW cmd)).toNat = cmd.toNat % 2 ^ f.operandWidth := by
  cases f with
  | z0 => simp [Format.operands, Format.operandWidth, Nat.mod_one]
  | b => simp [Format.operands, Format.operandWidth, toNat_append_bytes, toNat_cmdB]
  | ab =>
    simp only [Format.operands, Format.operandWidth, toNat_append_bytes, toNat_cmdA, toNat_cmdB]
    omega
  | w => exact toNat_cmdW cmd

/-- Masking with `k` ones from bit `w` on keeps those bits in place. -/
theorem and_ones_shiftLeft (n k w : Nat) : n &&& (2 ^ k - 1) <<< w = n / 2 ^ w % 2 ^ k * 2 ^ w := by
  rw [← Nat.and_two_pow_sub_one_eq_mod, ← Nat.shiftLeft_eq, Nat.shiftLeft_and_distrib]
  refine Nat.eq_of_testBit_eq fun j => ?_
  by_cases hj : w ≤ j
  · simp [Nat.testBit_shiftLeft, Nat.testBit_div_two_pow, hj, Nat.sub_add_cancel hj]
  · simp [Nat.testBit_shiftLeft, hj]

/-- The must-be-zero bits of a format are those between its operands and OPC (R91). -/
theorem toNat_mustBeZero (f : Format) : f.mustBeZero.toNat = (2 ^ (24 - f.operandWidth) - 1) <<< f.operandWidth := by
  cases f <;> rfl

/-- A format's mask covers all the bits above its operands (R91). -/
theorem toNat_mask (f : Format) : f.mask.toNat = (2 ^ (32 - f.operandWidth) - 1) <<< f.operandWidth := by
  cases f <;> rfl

theorem and_mustBeZero_eq_zero {f : Format} {cmd : Word} :
    cmd &&& f.mustBeZero = 0#32 ↔ cmd.toNat / 2 ^ f.operandWidth % 2 ^ (24 - f.operandWidth) = 0 := by
  rw [← BitVec.toNat_inj, BitVec.toNat_and, toNat_mustBeZero, and_ones_shiftLeft]
  simp

/-- A row selects the words of its opcode whose must-be-zero bits are zero (R91). -/
theorem selects_tableRow {o : Byte} {m : String} {f : Format} {cmd : Word} :
    (tableRow o m f).selects cmd = true ↔ cmdOpc cmd = o ∧ cmd &&& f.mustBeZero = 0#32 := by
  have ho : (o.setWidth 32 <<< 24 : Word).toNat = o.toNat * 2 ^ 24 := by
    simp only [BitVec.toNat_shiftLeft, BitVec.toNat_setWidth, Nat.shiftLeft_eq]; omega
  rw [and_mustBeZero_eq_zero, Row.selects, beq_iff_eq, ← BitVec.toNat_inj, ← BitVec.toNat_inj, toNat_cmdOpc]
  simp only [tableRow]
  rw [ho, BitVec.toNat_and, toNat_mask, and_ones_shiftLeft]
  cases f <;> simp only [Format.operandWidth] <;> omega

/-! ## The decoder accepts exactly the words of the encoder -/

/-- The opcode map makes an operation of its own opcode, format and operands. -/
theorem lookupOpc_encode (i : Instr) :
    lookupOpc (cmdOpc (encode i)) (cmdA (encode i)) (cmdB (encode i)) (cmdW (encode i)) = some (formatOf i, i) := by
  cases i <;> simp [lookupOpc, opcOf, operandBits, formatOf]

/-- What the opcode map answers is the operation of that opcode with those operands (R94). -/
theorem lookupOpc_eq_some {o a b : Byte} {w : Half} {f : Format} {i : Instr} (h : lookupOpc o a b w = some (f, i)) :
    opcOf i = o ∧ formatOf i = f ∧ operandBits i = f.operands a b w := by
  unfold lookupOpc at h
  split at h
  all_goals cases h
  all_goals exact ⟨BitVec.eq_of_toNat_eq (Eq.symm ‹_›), rfl, rfl⟩

/-- The operands of an operation fit in the operand bits of its format. -/
theorem operandBits_lt (i : Instr) : (operandBits i).toNat < 2 ^ (formatOf i).operandWidth := by
  obtain ⟨-, -, hb⟩ := lookupOpc_eq_some (lookupOpc_encode i)
  rw [hb, toNat_operands]
  exact Nat.mod_lt _ (Nat.two_pow_pos _)

theorem encode_and_mustBeZero (i : Instr) : encode i &&& (formatOf i).mustBeZero = 0#32 := by
  have hb := operandBits_lt i
  rw [and_mustBeZero_eq_zero, toNat_encode]
  cases hf : formatOf i <;> simp only [hf, Format.operandWidth] at hb ⊢ <;> omega

/-- A word decodes to an operation exactly if it is that operation's word (R95). -/
theorem decode_eq_instr_iff_encode {cmd : Word} {i : Instr} : decode cmd = .instr i ↔ encode i = cmd := by
  rw [decode_eq_instr]
  constructor
  · rintro ⟨f, hf, hz⟩
    obtain ⟨ho, -, hb⟩ := lookupOpc_eq_some hf
    rw [and_mustBeZero_eq_zero] at hz
    rw [← BitVec.toNat_inj, toNat_encode, ho, hb, toNat_operands, toNat_cmdOpc]
    cases f <;> simp only [Format.operandWidth] at hz ⊢ <;> omega
  · rintro rfl
    exact ⟨formatOf i, lookupOpc_encode i, encode_and_mustBeZero i⟩

theorem exists_illegal_iff {cmd : Word} : (∃ why, decode cmd = .illegal why) ↔ ¬ ∃ i, decode cmd = .instr i := by
  cases decode cmd <;> simp

/-! ## Legal words by opcode and format -/

/-- The format R94 gives an opcode; none if it is unassigned. -/
def formatAt (o : Byte) : Option Format := (lookupOpc o 0#8 0#8 0#16).map Prod.fst

/-- The opcode map reads the format off the opcode alone. -/
theorem map_fst_lookupOpc (o a b : Byte) (w : Half) : (lookupOpc o a b w).map Prod.fst = formatAt o := by
  unfold formatAt lookupOpc
  split <;> rfl

theorem formatAt_opcOf (i : Instr) : formatAt (opcOf i) = some (formatOf i) := by
  rw [← cmdOpc_encode i, ← map_fst_lookupOpc, lookupOpc_encode]
  rfl

/-- A word is legal exactly if its opcode is assigned and the must-be-zero bits of the opcode's format are zero (R95). -/
theorem exists_instr_iff {cmd : Word} :
    (∃ i, decode cmd = .instr i) ↔ ∃ f, formatAt (cmdOpc cmd) = some f ∧ cmd &&& f.mustBeZero = 0#32 := by
  simp only [decode_eq_instr, ← map_fst_lookupOpc (cmdOpc cmd) (cmdA cmd) (cmdB cmd) (cmdW cmd), Option.map_eq_some_iff,
    Prod.exists]
  constructor
  · rintro ⟨i, f, hf, hz⟩
    exact ⟨f, ⟨f, i, hf, rfl⟩, hz⟩
  · rintro ⟨f, ⟨_, i, hf, rfl⟩, hz⟩
    exact ⟨i, _, hf, hz⟩

/-- The unassigned opcodes of R96, and the opcodes of each format in R94. -/
theorem formatAt_iff : ∀ o : Byte,
    (Spec.Unassigned o.toNat ↔ formatAt o = none) ∧
    (o.toNat ∈ [0x00, 0x01, 0x21, 0x22, 0x24, 0x33, 0x34] ↔ formatAt o = some .z0) ∧
    (o.toNat ∈ [0x02, 0x13, 0x20, 0x23, 0x25, 0x26, 0x27, 0x30, 0x32, 0x41] ↔ formatAt o = some .b) ∧
    (o.toNat ∈ [0x10, 0x11, 0x12, 0x14, 0x28, 0x31, 0x35, 0x40] ↔ formatAt o = some .ab ∨ formatAt o = some .w) := by
  unfold Spec.Unassigned
  decide

/-- The illegal words by number (R96): no format for the opcode, or a must-be-zero bit of its format is 1. -/
theorem exists_illegal_iff_nat {cmd : Word} :
    (∃ why, decode cmd = .illegal why) ↔ Spec.Unassigned (cmd.toNat / 2 ^ 24) ∨ Spec.NonzeroMbz cmd.toNat := by
  obtain ⟨hnone, hz0, hb, h16⟩ := formatAt_iff (cmdOpc cmd)
  rw [Spec.NonzeroMbz, ← toNat_cmdOpc, hnone, hz0, hb, h16, exists_illegal_iff, exists_instr_iff]
  simp only [and_mustBeZero_eq_zero]
  cases formatAt (cmdOpc cmd) with
  | none => simp
  | some f => cases f <;> simp [Format.operandWidth]

/-! ## The opcode table -/

/-- Every row of the table is a `tableRow` whose format is that of its opcode. -/
theorem opcodeTable_rows : ∀ r ∈ opcodeTable, r = tableRow r.opc r.mnemonic r.format ∧ formatAt r.opc = some r.format := by
  decide

/-- Every assigned opcode has a row. -/
theorem exists_row_of_formatAt : ∀ (o : Byte), ∀ f ∈ formatAt o, ∃ r ∈ opcodeTable, r.opc = o ∧ r.format = f := by
  decide

theorem nodup_opcodes : (opcodeTable.map Row.opc).Nodup := by decide

theorem Row.selects_iff {r : Row} {cmd : Word} (hr : r ∈ opcodeTable) :
    r.selects cmd = true ↔ cmdOpc cmd = r.opc ∧ cmd &&& r.format.mustBeZero = 0#32 := by
  have h := selects_tableRow (o := r.opc) (m := r.mnemonic) (f := r.format) (cmd := cmd)
  rwa [← (opcodeTable_rows r hr).1] at h

end Sys2Proof

namespace Sys2Proof.Machine

/-- An illegal word raises E_ILLEGAL, and is ignored in the error state (R255). -/
theorem transact_illegal {cmd : Word} {why : Illegal} (h : decode cmd = .illegal why) (s : State) :
    transact cmd s = if s.err = 0#4 then raise .illegal s else .next (ignoredState s) := by
  simp [transact, h]

end Sys2Proof.Machine

namespace Sys2Proof.Proofs

open Sys2Proof.Machine Sys2Proof.Spec

/-- Settles O1: the decoder accepts the words of the encoder. -/
theorem decodeOfEncode : Obligations.DecodeOfEncode := by
  unfold Obligations.DecodeOfEncode
  exact fun i => decode_eq_instr_iff_encode.mpr rfl

/-- Settles O2: the decoder accepts nothing else. -/
theorem encodeOfDecode : Obligations.EncodeOfDecode := by
  unfold Obligations.EncodeOfDecode
  exact fun _ _ => decode_eq_instr_iff_encode.mp

/-- Settles O3, operation by operation, from the opcode and the operand bits. -/
theorem encodedWordLayout : Obligations.EncodedWordLayout := by
  unfold Obligations.EncodedWordLayout
  intro i
  rw [toNat_encode]
  cases i <;> simp [opcOf, operandBits, wordOf, toNat_append_bytes] <;> omega

/-- Settles O4: the illegal words by number, the step on one of them, and SYS.NOP as the word of its encoding. -/
theorem illegalWordsExactly : Obligations.IllegalWordsExactly := by
  unfold Obligations.IllegalWordsExactly
  refine ⟨fun cmd => exists_illegal_iff_nat, ?_, ⟨_, rfl⟩, fun cmd => ?_⟩
  · rintro s cmd ms hm ⟨why, hw⟩
    rw [step_issue hm, transact_illegal hw]
    rfl
  · rw [decode_eq_instr_iff_encode]
    exact eq_comm

/-- Settles O5: a row selects the legal words of its opcode, and no two rows share an opcode. -/
theorem tableSelectsDecoded : Obligations.TableSelectsDecoded := by
  unfold Obligations.TableSelectsDecoded
  refine fun cmd => ⟨fun p hp q hq hps hqs => ?_, fun i hi => ?_, fun hill r hr => ?_⟩
  · have hopc : p.opc = q.opc := ((Row.selects_iff hp).mp hps).1.symm.trans ((Row.selects_iff hq).mp hqs).1
    exact List.inj_on_of_nodup_map nodup_opcodes hp hq hopc
  · obtain rfl := decode_eq_instr_iff_encode.mp hi
    obtain ⟨r, hr, hopc, hf⟩ := exists_row_of_formatAt _ _ (formatAt_opcOf i)
    exact ⟨r, hr, (Row.selects_iff hr).mpr ⟨(cmdOpc_encode i).trans hopc.symm, hf ▸ encode_and_mustBeZero i⟩, hopc, hf⟩
  · rw [Bool.eq_false_iff]
    intro hs
    obtain ⟨ho, hz⟩ := (Row.selects_iff hr).mp hs
    have hlegal := exists_instr_iff.mpr ⟨r.format, ho ▸ (opcodeTable_rows r hr).2, hz⟩
    exact exists_illegal_iff.mp hill hlegal

/-- Settles O6, by decoding the eleven words. -/
theorem specExampleWordsDecode : Obligations.SpecExampleWordsDecode := by
  unfold Obligations.SpecExampleWordsDecode
  decide

end Sys2Proof.Proofs
end

section
/-!
PROOFS. The field GF(2^8) (40_gf256 R120 to R133). EXP[i] is the i-th iterate of `double` from 1, and its period is 255; so LOG inverts
it and multiplying by EXP[i] is doubling i times. `double` is additive and so is the reduction modulo 0x11D: distributivity, and the
product of polynomials, follow.
-/

namespace Sys2Proof.Machine

open Sys2Proof.Spec

/-! ## Reduction modulo 0x11D -/

/-- One step of `Spec.reduce`: a set bit i + 8 is cancelled by 0x11D, shifted. -/
def reduceStep (i r : Nat) : Nat := if r.testBit (i + 8) then r ^^^ (0x11D <<< i) else r

theorem reduce_eq_reduceStep (v : Nat) : reduce v = reduceStep 0 (reduceStep 1 (reduceStep 2 (reduceStep 3 (reduceStep 4
    (reduceStep 5 (reduceStep 6 v)))))) := rfl

theorem reduceStep_of_lt {i r : Nat} (h : r < 2 ^ (i + 8)) : reduceStep i r = r := by
  simp [reduceStep, Nat.testBit_lt_two_pow h]

/-- A polynomial of degree below 8 is its own remainder. -/
theorem reduce_of_lt {v : Nat} (h : v < 2 ^ 8) : reduce v = v := by
  have hstep (i : Nat) : reduceStep i v = v := reduceStep_of_lt (h.trans_le (Nat.pow_le_pow_right (by decide) (by omega)))
  simp only [reduce_eq_reduceStep, hstep]

theorem reduceStep_xor (i r q : Nat) : reduceStep i (r ^^^ q) = reduceStep i r ^^^ reduceStep i q := by
  unfold reduceStep
  rw [Nat.testBit_xor]
  cases r.testBit (i + 8) <;> cases q.testBit (i + 8)
  · rfl
  · exact Nat.xor_assoc r q _
  · exact Nat.xor_right_comm r q _
  · simp [Nat.xor_assoc]

theorem reduceStep_succ_shiftLeft (i r : Nat) : reduceStep (i + 1) (r <<< 1) = reduceStep i r <<< 1 := by
  have hbit : (r <<< 1).testBit (i + 1 + 8) = r.testBit (i + 8) := by
    rw [Nat.testBit_shiftLeft]
    simp
  unfold reduceStep
  rw [hbit]
  split
  · rw [Nat.shiftLeft_xor_distrib, Nat.shiftLeft_add]
  · rfl

theorem reduce_xor (u v : Nat) : reduce (u ^^^ v) = reduce u ^^^ reduce v := by
  simp only [reduce_eq_reduceStep, reduceStep_xor]

/-- Reducing a polynomial times x is one step more on its reduction. -/
theorem reduce_shiftLeft_one {v : Nat} (h : v < 2 ^ 14) : reduce (v <<< 1) = reduceStep 0 (reduce v <<< 1) := by
  simp only [reduce_eq_reduceStep, reduceStep_succ_shiftLeft, reduceStep_of_lt (i := 6) h]

/-! ## Doubling -/

/-- The recurrence of R121 over plain numbers: multiplication by x, reduced. -/
theorem toNat_double : ∀ x : Byte, (double x).toNat = reduceStep 0 (x.toNat <<< 1) := by
  decide

/-- The recurrence in the words of R121: twice x, XOR 0x11D when that exceeds 255. -/
theorem toNat_double_eq_ite (x : Byte) :
    (double x).toNat = if 2 * x.toNat < 256 then 2 * x.toNat else (2 * x.toNat) ^^^ 0x11D := by
  have hx := x.isLt
  rw [toNat_double, Nat.shiftLeft_eq, Nat.pow_one, Nat.mul_comm]
  split
  · exact reduceStep_of_lt ‹_›
  · have hbit : (2 * x.toNat).testBit 8 = true := by
      rw [Nat.testBit_eq_decide_div_mod_eq, decide_eq_true_eq]
      omega
    simp [reduceStep, hbit]

theorem double_xor (x y : Byte) : double (x ^^^ y) = double x ^^^ double y := by
  rw [← BitVec.toNat_inj, BitVec.toNat_xor]
  simp only [toNat_double, BitVec.toNat_xor, Nat.shiftLeft_xor_distrib, reduceStep_xor]

theorem double_zero : double 0#8 = 0#8 := rfl

theorem double_ne_zero : ∀ {x : Byte}, x ≠ 0#8 → double x ≠ 0#8 := by
  decide

theorem iterate_double_zero (i : Nat) : double^[i] 0#8 = 0#8 := Function.iterate_fixed double_zero i

theorem iterate_double_xor (i : Nat) (x y : Byte) : double^[i] (x ^^^ y) = double^[i] x ^^^ double^[i] y := by
  induction i generalizing x y with
  | zero => rfl
  | succ i ih => rw [Function.iterate_succ_apply, double_xor, ih]; rfl

theorem iterate_double_ne_zero (i : Nat) {x : Byte} (h : x ≠ 0#8) : double^[i] x ≠ 0#8 := by
  induction i generalizing x with
  | zero => exact h
  | succ i ih => exact ih (double_ne_zero h)

/-- Doubling i times is multiplication by x^i, reduced. -/
theorem reduce_shiftLeft (a : Byte) {i : Nat} (hi : i ≤ 7) : reduce (a.toNat <<< i) = (double^[i] a).toNat := by
  induction i with
  | zero => exact reduce_of_lt a.isLt
  | succ i ih =>
    have hlt : a.toNat <<< i < 2 ^ 14 := by
      have hpow : 2 ^ i ≤ 2 ^ 6 := Nat.pow_le_pow_right (by decide) (by omega)
      rw [Nat.shiftLeft_eq]
      exact Nat.mul_lt_mul_of_lt_of_le (c := 2 ^ 8) a.isLt hpow (by decide)
    rw [Nat.shiftLeft_add, reduce_shiftLeft_one hlt, ih (by omega), ← toNat_double, Function.iterate_succ_apply']

/-! ## The exponent table -/

theorem expIter_eq_iterate (i : Nat) : expIter i = double^[i] 1#8 := by
  induction i with
  | zero => rfl
  | succ i ih => rw [Function.iterate_succ_apply', ← ih]; rfl

theorem isPeriodicPt_double_iff {n : Nat} : Function.IsPeriodicPt double n 1#8 ↔ expIter n = 1#8 := by
  rw [expIter_eq_iterate]; rfl

/-- The order of 2 is 255: it divides 255, and no prime factor can be left out. -/
theorem minimalPeriod_double : Function.minimalPeriod double 1#8 = 255 := by
  have hper : Function.IsPeriodicPt double 255 1#8 := isPeriodicPt_double_iff.mpr (by decide +kernel)
  have hdiv : ∀ d ∈ Nat.divisors 255, d = 255 ∨ d ∣ 15 ∨ d ∣ 51 ∨ d ∣ 85 := by decide
  have hnot : ∀ n, expIter n ≠ 1#8 → ¬ Function.minimalPeriod double 1#8 ∣ n := fun n hn hd =>
    hn (isPeriodicPt_double_iff.mp ((Function.isPeriodicPt_minimalPeriod double 1#8).trans_dvd hd))
  have h15 := hnot 15 (by decide +kernel)
  have h51 := hnot 51 (by decide +kernel)
  have h85 := hnot 85 (by decide +kernel)
  have hmem : Function.minimalPeriod double 1#8 ∈ Nat.divisors 255 := by
    simpa using hper.minimalPeriod_dvd
  simpa [h15, h51, h85] using hdiv _ hmem

theorem gfexp_eq_iterate (i : Nat) : gfexp i = double^[i] 1#8 := by
  rw [gfexp, expIter_eq_iterate, ← minimalPeriod_double, Function.iterate_mod_minimalPeriod_eq]

theorem gfexp_eq_expIter (i : Nat) : gfexp i = expIter i := by
  rw [gfexp_eq_iterate, expIter_eq_iterate]

theorem gfexp_succ (i : Nat) : gfexp (i + 1) = double (gfexp i) := by
  simp only [gfexp_eq_iterate, Function.iterate_succ_apply']

theorem gfexp_mod (i : Nat) : gfexp (i % 255) = gfexp i := by
  simp [gfexp]

theorem gfexp_add (i j : Nat) : gfexp (i + j) = double^[i] (gfexp j) := by
  simp only [gfexp_eq_iterate, Function.iterate_add_apply]

theorem gfexp_ne_zero (i : Nat) : gfexp i ≠ 0#8 := by
  rw [gfexp_eq_iterate]
  exact iterate_double_ne_zero i (by decide)

theorem gfexp_inj {i j : Nat} (hi : i < 255) (hj : j < 255) : gfexp i = gfexp j ↔ i = j := by
  rw [← minimalPeriod_double] at hi hj
  rw [gfexp_eq_iterate, gfexp_eq_iterate, Function.iterate_eq_iterate_iff_of_lt_minimalPeriod hi hj]

/-- 255 different entries are all 255 nonzero elements (R127). -/
theorem exists_gfexp {v : Byte} (h : v ≠ 0#8) : ∃ i < 255, gfexp i = v := by
  have hsurj := Finset.surjOn_of_injOn_of_card_le (s := Finset.range 255) (t := Finset.univ.erase 0#8) gfexp
    (fun i _ => by simp [gfexp_ne_zero])
    (fun i hi j hj hij => (gfexp_inj (by simpa using hi) (by simpa using hj)).mp hij)
    (by simp [← FinEnum.card_eq_fintypeCard])
  simpa using hsurj (by simpa using h)

/-- Every element is 0 or a power of 2. -/
theorem eq_zero_or_gfexp (a : Byte) : a = 0#8 ∨ ∃ i, a = gfexp i := by
  by_cases ha : a = 0#8
  · exact .inl ha
  · obtain ⟨i, -, hi⟩ := exists_gfexp ha
    exact .inr ⟨i, hi.symm⟩

/-! ## The log table -/

theorem logFrom_eq_find? (v : Byte) : ∀ count i : Nat,
    logFrom v count i (expIter i) = (List.range' i count).find? fun k => expIter k = v
  | 0, _ => rfl
  | count + 1, i => by
    have ih := logFrom_eq_find? v count (i + 1)
    rw [List.range'_succ, List.find?_cons, ← ih]
    by_cases h : expIter i = v <;> simp [logFrom, h, expIter]

/-- R124: LOG[v] is the place of v in EXP[0..254]. -/
theorem gflog_eq_some_iff {v : Byte} {i : Nat} : gflog v = some i ↔ i < 255 ∧ gfexp i = v := by
  have hfind : gflog v = (List.range 255).find? fun k => gfexp k = v := by
    simp only [gfexp_eq_expIter, List.range_eq_range', ← logFrom_eq_find?]
    rfl
  rw [hfind, List.find?_range_eq_some]
  simp only [decide_eq_true_eq, List.mem_range, Bool.not_eq_true', decide_eq_false_iff_not]
  constructor
  · rintro ⟨hv, hi, -⟩
    exact ⟨hi, hv⟩
  · rintro ⟨hi, rfl⟩
    exact ⟨rfl, hi, fun j hj hij => hj.ne ((gfexp_inj (by omega) hi).mp hij)⟩

theorem gflog_gfexp (i : Nat) : gflog (gfexp i) = some (i % 255) :=
  gflog_eq_some_iff.mpr ⟨Nat.mod_lt _ (by decide), gfexp_mod i⟩

/-- R126: LOG has no value exactly at 0. -/
theorem gflog_eq_none_iff {v : Byte} : gflog v = none ↔ v = 0#8 := by
  obtain rfl | ⟨i, rfl⟩ := eq_zero_or_gfexp v
  · refine iff_of_true (Option.eq_none_iff_forall_ne_some.mpr fun i hi => ?_) rfl
    exact gfexp_ne_zero i (gflog_eq_some_iff.mp hi).2
  · simp [gflog_gfexp, gfexp_ne_zero]

/-! ## Products and powers -/

@[simp] theorem gflog_zero : gflog 0#8 = none := gflog_eq_none_iff.mpr rfl

@[simp] theorem gfmul_zero (a : Byte) : gfmul a 0#8 = 0#8 := by
  cases h : gflog a <;> simp [gfmul, h]

theorem gfmul_comm (a b : Byte) : gfmul a b = gfmul b a := by
  cases ha : gflog a <;> cases hb : gflog b <;> simp [gfmul, ha, hb, Nat.add_comm]

@[simp] theorem zero_gfmul (a : Byte) : gfmul 0#8 a = 0#8 := by
  rw [gfmul_comm, gfmul_zero]

theorem gfmul_gfexp_gfexp (i j : Nat) : gfmul (gfexp i) (gfexp j) = gfexp (i + j) := by
  simp only [gfmul, gflog_gfexp, Nat.add_mod_mod, Nat.mod_add_mod, gfexp_mod]

/-- Multiplying by EXP[i] is doubling i times. -/
theorem gfmul_gfexp (i : Nat) (b : Byte) : gfmul (gfexp i) b = double^[i] b := by
  obtain rfl | ⟨j, rfl⟩ := eq_zero_or_gfexp b
  · rw [gfmul_zero, iterate_double_zero]
  · rw [gfmul_gfexp_gfexp, gfexp_add]

theorem gfmul_xor (a b c : Byte) : gfmul a (b ^^^ c) = gfmul a b ^^^ gfmul a c := by
  obtain rfl | ⟨i, rfl⟩ := eq_zero_or_gfexp a
  · simp
  · simp only [gfmul_gfexp, iterate_double_xor]

theorem gfmul_assoc (a b c : Byte) : gfmul (gfmul a b) c = gfmul a (gfmul b c) := by
  obtain rfl | ⟨i, rfl⟩ := eq_zero_or_gfexp a
  · simp
  obtain rfl | ⟨j, rfl⟩ := eq_zero_or_gfexp b
  · simp
  rw [gfmul_gfexp_gfexp, gfmul_gfexp, gfmul_gfexp, gfmul_gfexp, Function.iterate_add_apply]

@[simp] theorem one_gfmul (a : Byte) : gfmul 1#8 a = a := gfmul_gfexp 0 a

@[simp] theorem gfmul_one (a : Byte) : gfmul a 1#8 = a := by
  rw [gfmul_comm, one_gfmul]

theorem gfmul_eq_zero_iff {a b : Byte} : gfmul a b = 0#8 ↔ a = 0#8 ∨ b = 0#8 := by
  obtain rfl | ⟨i, rfl⟩ := eq_zero_or_gfexp a
  · simp
  obtain rfl | ⟨j, rfl⟩ := eq_zero_or_gfexp b
  · simp
  simp [gfmul_gfexp_gfexp, gfexp_ne_zero]

/-- EXP[-i] is the inverse of EXP[i] (R133). -/
theorem gfmul_gfexp_neg {i : Nat} (hi : i < 255) : gfmul (gfexp i) (gfexp ((255 - i) % 255)) = 1#8 := by
  rw [gfexp_mod, gfmul_gfexp_gfexp, Nat.add_sub_cancel' hi.le]
  rfl

theorem gfpow_gfexp (i k : Nat) : gfpow (gfexp i) k = gfexp (i * k) := by
  obtain rfl | hk := Nat.eq_zero_or_pos k
  · rfl
  · simp only [gfpow, hk.ne', if_false, gflog_gfexp, Nat.mod_mul_mod, gfexp_mod]

theorem gfpow_zero (a : Byte) : gfpow a 0 = 1#8 := rfl

theorem zero_gfpow_succ (k : Nat) : gfpow 0#8 (k + 1) = 0#8 := by
  simp [gfpow]

theorem gfpow_succ (a : Byte) (k : Nat) : gfpow a (k + 1) = gfmul (gfpow a k) a := by
  obtain rfl | ⟨i, rfl⟩ := eq_zero_or_gfexp a
  · rw [zero_gfpow_succ, gfmul_zero]
  · rw [gfpow_gfexp, gfpow_gfexp, gfmul_gfexp_gfexp, Nat.mul_succ]

/-! ## The product of polynomials -/

/-- The XOR of the powers x^i for the set bits i of b. -/
def sumOfPowers (b : Byte) : Byte :=
  [0, 1, 2, 3, 4, 5, 6, 7].foldl (fun acc i => if b.toNat.testBit i then acc ^^^ gfexp i else acc) 0#8

/-- EXP[0..7] are the eight bits of a byte. -/
theorem sumOfPowers_eq : ∀ b : Byte, sumOfPowers b = b := by
  decide +kernel

/-- Term by term, the reduced carry-less product is the product with the powers. -/
theorem reduce_clmul (a b : Byte) : reduce (clmul a.toNat b.toNat) = (gfmul a (sumOfPowers b)).toNat := by
  refine List.foldl_rel (r := fun p v => reduce p = (gfmul a v).toNat) ?_ fun i hi p v ih => ?_
  · rw [gfmul_zero]
    rfl
  · have hi7 : i ≤ 7 := by simp at hi; omega
    split
    · rw [reduce_xor, ih, reduce_shiftLeft a hi7, gfmul_xor, gfmul_comm a (gfexp i), gfmul_gfexp, BitVec.toNat_xor]
    · exact ih

theorem toNat_gfmul (a b : Byte) : (gfmul a b).toNat = reduce (clmul a.toNat b.toNat) := by
  rw [reduce_clmul, sumOfPowers_eq]

/-! ## The operations that raise -/

theorem execGfExp_of_gt {w : Half} (h : 511 < w.toNat) (s : State) : execGfExp w s = raise .range s := by
  simp [execGfExp, h]

theorem execGfExp_of_le {w : Half} (h : w.toNat ≤ 511) (s : State) :
    execGfExp w s = respond ((gfexp w.toNat).setWidth 32) s := by
  simp [execGfExp, Nat.not_lt.mpr h]

theorem execGfLog_of_some {b : Byte} {i : Nat} (h : gflog b = some i) (s : State) :
    execGfLog b s = respond (BitVec.ofNat 32 i) s := by
  simp [execGfLog, h]

theorem execGfLog_zero (s : State) : execGfLog 0#8 s = raise .logZero s := by
  simp [execGfLog]

end Sys2Proof.Machine

namespace Sys2Proof.Proofs

open Sys2Proof.Machine Sys2Proof.Spec

/-- Settles O29: EXP is one-to-one on 0..254 and reaches every nonzero element, so the search for LOG finds the one index. -/
theorem logInvertsExp : Obligations.LogInvertsExp := by
  unfold Obligations.LogInvertsExp
  refine ⟨fun v i => gflog_eq_some_iff, fun v => gflog_eq_none_iff, fun i j hi hj => (gfexp_inj hi hj).mp, ?_⟩
  decide +kernel

/-- Settles O30: logs are below 255, and EXP has that period. -/
theorem mulByLogs : Obligations.MulByLogs := by
  unfold Obligations.MulByLogs
  refine fun a b => ⟨gfmul_eq_zero_iff.mpr, fun ha hb h => (gfmul_eq_zero_iff.mp h).elim ha hb, fun i j hi hj => ?_⟩
  obtain ⟨hi255, rfl⟩ := gflog_eq_some_iff.mp hi
  obtain ⟨hj255, rfl⟩ := gflog_eq_some_iff.mp hj
  rw [gfexp_mod]
  exact ⟨gfmul_gfexp_gfexp i j, by omega, gfmul_gfexp_gfexp i j⟩

/-- Settles O31: both sides are additive in b, and equal on the powers of x. -/
theorem mulIsPolynomialProduct : Obligations.MulIsPolynomialProduct := by
  unfold Obligations.MulIsPolynomialProduct
  exact toNat_gfmul

/-- Settles O32: the laws of products by logs, distributivity by the additivity of doubling. -/
theorem fieldLaws : Obligations.FieldLaws := by
  unfold Obligations.FieldLaws
  refine ⟨fun a b => ⟨BitVec.xor_comm a b, gfmul_comm a b⟩, fun a b c => ⟨BitVec.xor_assoc a b c, gfmul_assoc a b c⟩,
    gfmul_xor, fun a => ⟨BitVec.xor_self, gfmul_one a, gfmul_zero a⟩, fun a i hi => ?_, fun a b => gfmul_eq_zero_iff.mp⟩
  obtain ⟨hi255, rfl⟩ := gflog_eq_some_iff.mp hi
  exact gfmul_gfexp_neg hi255

/-- Settles O33: one factor more adds the log once more. -/
theorem powIsRepeatedMul : Obligations.PowIsRepeatedMul := by
  unfold Obligations.PowIsRepeatedMul
  refine fun a k => ⟨gfpow_zero a, gfpow_succ a k, zero_gfpow_succ k, fun i hi => ?_⟩
  obtain ⟨-, rfl⟩ := gflog_eq_some_iff.mp hi
  rw [gfpow_gfexp, gfexp_mod]

/-- Settles O22: the operation is its rule. -/
theorem gfAddResult : Obligations.GfAddResult := by
  unfold Obligations.GfAddResult
  exact fun a b s => ⟨⟨rfl, rfl⟩, rfl⟩

/-- Settles O23: the operation is its rule, and the corner cases are the field's. -/
theorem gfMulResult : Obligations.GfMulResult := by
  unfold Obligations.GfMulResult
  refine ⟨fun a b s => ⟨⟨rfl, rfl⟩, rfl⟩, fun a => ⟨zero_gfmul a, gfmul_zero a, one_gfmul a⟩, ?_⟩
  decide +kernel

/-- Settles O24: the check at 511, and six table entries. -/
theorem gfExpResult : Obligations.GfExpResult := by
  unfold Obligations.GfExpResult
  refine ⟨fun w s => ⟨⟨rfl, rfl⟩, fun h => execGfExp_of_gt h s, fun h => execGfExp_of_le h s⟩, ?_⟩
  decide +kernel

/-- Settles O25: every nonzero element has its log, and 0 raises. -/
theorem gfLogResult : Obligations.GfLogResult := by
  unfold Obligations.GfLogResult
  refine ⟨fun b s => ⟨⟨rfl, rfl⟩, ?_, fun hb => ?_⟩, ?_⟩
  · rintro rfl
    exact execGfLog_zero s
  · obtain ⟨i, hi, hexp⟩ := exists_gfexp hb
    have hlog := gflog_eq_some_iff.mpr ⟨hi, hexp⟩
    exact ⟨i, by omega, hexp, hlog, execGfLog_of_some hlog s⟩
  · decide +kernel

/-- Settles O26: a times its power 254 has 255 times the log of a, a multiple of the period. -/
theorem gfPowResult : Obligations.GfPowResult := by
  unfold Obligations.GfPowResult
  refine ⟨fun a b s => ⟨⟨rfl, rfl⟩, rfl⟩, gfpow_zero, fun a ha => ?_, ?_⟩
  · obtain ⟨i, -, rfl⟩ := exists_gfexp ha
    rw [gfpow_gfexp, gfmul_gfexp_gfexp, ← gfexp_mod, show (i + i * 254) % 255 = 0 by omega]
    rfl
  · decide +kernel

/-- Settles O27, by the recurrence over numbers, and the period 255 of EXP. -/
theorem expTableRecurrence : Obligations.ExpTableRecurrence := by
  unfold Obligations.ExpTableRecurrence
  refine ⟨rfl, fun i hi _ => ?_, fun i hi _ => ?_⟩
  · obtain ⟨i, rfl⟩ := Nat.exists_eq_add_of_le' hi
    exact (congrArg BitVec.toNat (gfexp_succ i)).trans (toNat_double_eq_ite (gfexp i))
  · rw [← gfexp_mod i, Nat.mod_eq_sub_mod hi, gfexp_mod]

/-- Settles O28: the tables are computed; that each nonzero element has one place is the order of 2. -/
theorem expLogTables : Obligations.ExpLogTables := by
  unfold Obligations.ExpLogTables
  refine ⟨by decide +kernel, by decide +kernel, fun i _ => gfexp_ne_zero i, fun v hv => ?_⟩
  obtain ⟨i, hi, rfl⟩ := exists_gfexp hv
  exact ⟨i, hi, rfl, fun j hj => (gfexp_inj hj hi).mp⟩

/-- Settles O60: EXP by its period and order; the traversal's formulas as they are defined. -/
theorem totalBeyondRules : Obligations.TotalBeyondRules := by
  unfold Obligations.TotalBeyondRules
  refine ⟨fun i => ⟨(gfexp_mod i).symm, gfexp_ne_zero i⟩, fun side j t h => ⟨rfl, ?_, ?_, ?_⟩⟩
  · simp [rowAt]
  · simp [rowAt]
  · cases h <;> rfl

end Sys2Proof.Proofs
end

section
/-!
PROOFS. Polynomials over GF(2^8) (41_reed_solomon R150 to R152). A product with one coefficient more is the product shifted by one
place plus a multiple of the first factor. That is the step of R152 in place; and by it the value of a product is the product of
the values, so the roots of a generator are those of its factors.
-/

namespace Sys2Proof.Machine

/-! ## Sums of polynomials -/

theorem xor_gfmul (a b c : Byte) : gfmul (a ^^^ b) c = gfmul a c ^^^ gfmul b c := by
  rw [gfmul_comm, gfmul_xor, gfmul_comm c a, gfmul_comm c b]

/-- The sum of two polynomials of one length. -/
def polyadd (p q : List Byte) : List Byte := List.zipWith (· ^^^ ·) p q

@[simp] theorem polyadd_nil_left (q : List Byte) : polyadd [] q = [] := rfl

@[simp] theorem polyadd_cons (a b : Byte) (p q : List Byte) : polyadd (a :: p) (b :: q) = (a ^^^ b) :: polyadd p q := rfl

@[simp] theorem length_polyadd (p q : List Byte) : (polyadd p q).length = min p.length q.length := List.length_zipWith

theorem getElem_polyadd {p q : List Byte} {i : Nat} (h : i < (polyadd p q).length) :
    (polyadd p q)[i] = p[i]'(by simp at h; omega) ^^^ q[i]'(by simp at h; omega) := List.getElem_zipWith

theorem getD_polyadd {p q : List Byte} (h : p.length = q.length) (i : Nat) :
    (polyadd p q).getD i 0#8 = p.getD i 0#8 ^^^ q.getD i 0#8 := by
  by_cases hi : i < p.length
  · simp [polyadd, List.getD_eq_getElem?_getD, hi, h ▸ hi]
  · simp [polyadd, List.getD_eq_getElem?_getD, hi, h ▸ hi]

theorem getD_append_zero (p : List Byte) (i : Nat) : (p ++ [0#8]).getD i 0#8 = p.getD i 0#8 := by
  by_cases hi : i < p.length
  · exact List.getD_append _ _ _ _ hi
  · rw [List.getD_append_right _ _ _ _ (by omega), List.getD_eq_getElem?_getD,
      List.getElem?_getD_singleton_default_eq, List.getD_eq_default _ _ (by omega)]

theorem polyadd_append {p q p' q' : List Byte} (h : p.length = q.length) :
    polyadd (p ++ p') (q ++ q') = polyadd p q ++ polyadd p' q' := List.zipWith_append h

theorem polyadd_replicate_zero (n : Nat) :
    polyadd (List.replicate n 0#8) (List.replicate n 0#8) = List.replicate n 0#8 := by
  simp [polyadd]

/-- A sum of two multiples is the multiple by the sum. -/
theorem scale_xor (a b : Byte) (p : List Byte) :
    p.map (gfmul (a ^^^ b)) = polyadd (p.map (gfmul a)) (p.map (gfmul b)) := by
  simp [polyadd, List.zipWith_map, xor_gfmul]

/-! ## The value at a point -/

variable (x : Byte)

theorem gfpow_add (i j : Nat) : gfpow x (i + j) = gfmul (gfpow x i) (gfpow x j) := by
  induction j with
  | zero => rw [gfpow_zero, gfmul_one, Nat.add_zero]
  | succ j ih => rw [← Nat.add_assoc, gfpow_succ, ih, gfmul_assoc, gfpow_succ]

@[simp] theorem polyEval_nil : polyEval [] x = 0#8 := rfl

theorem polyEval_concat (p : List Byte) (c : Byte) : polyEval (p ++ [c]) x = gfmul (polyEval p x) x ^^^ c := by
  simp [polyEval]

@[simp] theorem polyEval_singleton (c : Byte) : polyEval [c] x = c := by
  simp [polyEval]

theorem polyEval_append (p q : List Byte) :
    polyEval (p ++ q) x = gfmul (polyEval p x) (gfpow x q.length) ^^^ polyEval q x := by
  induction q using List.reverseRecOn with
  | nil => simp [gfpow_zero]
  | append_singleton q c ih =>
    rw [← List.append_assoc, polyEval_concat, ih, polyEval_concat, xor_gfmul, gfmul_assoc, ← gfpow_succ,
      List.length_append, List.length_singleton, BitVec.xor_assoc]

theorem polyEval_cons (c : Byte) (p : List Byte) :
    polyEval (c :: p) x = gfmul c (gfpow x p.length) ^^^ polyEval p x := by
  simpa using polyEval_append x [c] p

theorem polyEval_polyadd : ∀ {p q : List Byte}, p.length = q.length →
    polyEval (polyadd p q) x = polyEval p x ^^^ polyEval q x
  | [], [], _ => by simp
  | a :: p, b :: q, h => by
    have hpq : p.length = q.length := by simpa using h
    simp only [polyadd_cons, polyEval_cons, length_polyadd, hpq, Nat.min_self, polyEval_polyadd hpq, xor_gfmul]
    ac_rfl

theorem polyEval_scale (a : Byte) (p : List Byte) : polyEval (p.map (gfmul a)) x = gfmul a (polyEval p x) := by
  induction p with
  | nil => simp
  | cons c p ih => simp only [List.map_cons, polyEval_cons, List.length_map, ih, gfmul_xor, gfmul_assoc]

@[simp] theorem polyEval_replicate_zero (k : Nat) : polyEval (List.replicate k 0#8) x = 0#8 := by
  induction k with
  | zero => rfl
  | succ k ih => simp [List.replicate_succ, polyEval_cons, ih]

/-! ## The product -/

theorem xorAll_concat (xs : List Byte) (v : Byte) : xorAll (xs ++ [v]) = xorAll xs ^^^ v := by
  induction xs with
  | nil => simp [xorAll]
  | cons y xs ih =>
    change y ^^^ xorAll (xs ++ [v]) = y ^^^ xorAll xs ^^^ v
    rw [ih, BitVec.xor_assoc]

theorem xorAll_eq_zero {xs : List Byte} (h : ∀ v ∈ xs, v = 0#8) : xorAll xs = 0#8 := by
  rw [List.eq_replicate_of_mem h]
  induction xs.length with
  | zero => rfl
  | succ n ih => simpa [xorAll, List.replicate_succ] using ih

/-- One coefficient more of q adds one term to every coefficient of the product it reaches. -/
theorem mulCoeff_concat (p q : List Byte) (c : Byte) (m : Nat) :
    mulCoeff p (q ++ [c]) m =
      mulCoeff p q m ^^^ if q.length ≤ m then gfmul (p.getD (m - q.length) 0#8) c else 0#8 := by
  unfold mulCoeff
  rw [List.length_append, List.length_singleton, List.range_succ, List.map_append, List.map_singleton, xorAll_concat]
  congr 1
  · refine congrArg xorAll (List.map_congr_left fun j hj => ?_)
    rw [List.getElem?_append_left (List.mem_range.mp hj)]
  · rw [List.getElem?_concat_length, List.getD_eq_getElem?_getD]
    cases p[m - q.length]? <;> simp

/-- A product has no coefficient beyond its length. -/
theorem mulCoeff_eq_zero {p q : List Byte} {m : Nat} (h : p.length + q.length ≤ m + 1) : mulCoeff p q m = 0#8 := by
  refine xorAll_eq_zero fun v hv => ?_
  obtain ⟨j, hj, rfl⟩ := List.mem_map.mp hv
  have hnone : p[m - j]? = none := List.getElem?_eq_none (by have := List.mem_range.mp hj; omega)
  simp [hnone]

theorem polymul_nil (p : List Byte) : polymul p [] = List.replicate (p.length - 1) 0#8 := by
  refine List.ext_getElem (by simp [polymul]) fun m _ _ => ?_
  simp [polymul, mulCoeff, xorAll]

@[simp] theorem length_polymul (p q : List Byte) : (polymul p q).length = p.length + q.length - 1 := by
  simp [polymul]

/-- The product shifted by one place is the list of its coefficients, one longer. -/
theorem polymul_append_zero {p : List Byte} (hp : p ≠ []) (q : List Byte) :
    polymul p q ++ [0#8] = (List.range (p.length + q.length)).map (mulCoeff p q) := by
  have hlen : p.length + q.length - 1 + 1 = p.length + q.length := by have := List.length_pos_iff.mpr hp; omega
  rw [← hlen, List.range_succ, List.map_append, List.map_singleton, mulCoeff_eq_zero hlen.ge, polymul]

/-- A product with one coefficient more is the product shifted by one place, plus that coefficient's multiple. -/
theorem polymul_concat {p : List Byte} (hp : p ≠ []) (q : List Byte) (c : Byte) :
    polymul p (q ++ [c]) = polyadd (polymul p q ++ [0#8]) (List.replicate q.length 0#8 ++ p.map (gfmul c)) := by
  rw [polymul_append_zero hp]
  refine List.ext_getElem (by simp; omega) fun m hm hm' => ?_
  have hmp : m < q.length + p.length := by simp at hm'; omega
  rw [getElem_polyadd, List.getElem_append]
  simp only [polymul, List.getElem_map, List.getElem_range, mulCoeff_concat, List.length_replicate,
    List.getElem_replicate]
  by_cases hq : m < q.length
  · rw [if_neg (by omega), dif_pos hq]
  · rw [if_pos (by omega), dif_neg hq, List.getD_eq_getElem _ _ (by omega), gfmul_comm]

/-- The value of a product is the product of the values, by Horner's rule for the second factor. -/
theorem polyEval_polymul {p : List Byte} (hp : p ≠ []) (q : List Byte) :
    polyEval (polymul p q) x = gfmul (polyEval p x) (polyEval q x) := by
  induction q using List.reverseRecOn with
  | nil => simp [polymul_nil]
  | append_singleton q c ih =>
    have hlen : 0 < p.length := List.length_pos_iff.mpr hp
    rw [polymul_concat hp, polyEval_polyadd x (by simp; omega), polyEval_concat, polyEval_append, polyEval_scale, ih,
      polyEval_concat, gfmul_xor, gfmul_assoc, gfmul_comm c]
    simp

theorem polymul_one (p : List Byte) : polymul p [1#8] = p := by
  refine List.ext_getElem (by simp) fun m _ hm => ?_
  simp [polymul, mulCoeff, xorAll, List.getElem?_eq_getElem hm]

/-! ## The generator -/

theorem genpoly_ne_nil (n : Nat) : genpoly n ≠ [] := List.ne_nil_of_length_pos (by simp)

/-- R152: the next generator is this one shifted by one place, plus EXP[n] times it. -/
theorem genpoly_succ (n : Nat) :
    genpoly (n + 1) = polyadd (genpoly n ++ [0#8]) (0#8 :: (genpoly n).map (gfmul (gfexp n))) :=
  calc genpoly (n + 1) = polymul (genpoly n) ([1#8] ++ [gfexp n]) := rfl
    _ = _ := by rw [polymul_concat (genpoly_ne_nil n), polymul_one]; rfl

/-- The first entry of a generator is 1. -/
theorem genpoly_eq_one_cons (n : Nat) : ∃ t, genpoly n = 1#8 :: t ∧ t.length = n := by
  induction n with
  | zero => exact ⟨[], rfl, rfl⟩
  | succ n ih =>
    obtain ⟨t, ht, hlen⟩ := ih
    exact ⟨_, by rw [genpoly_succ, ht, List.cons_append, polyadd_cons, BitVec.xor_zero], by simp [hlen]⟩

/-- R152, the step in place, past the first entry. -/
theorem getD_genpoly_succ (n j : Nat) :
    (genpoly (n + 1)).getD (j + 1) 0#8 =
      (genpoly n).getD (j + 1) 0#8 ^^^ gfmul ((genpoly n).getD j 0#8) (gfexp n) := by
  have hmap := List.getD_map (l := genpoly n) (d := 0#8) (n := j) (gfmul (gfexp n))
  rw [gfmul_zero] at hmap
  rw [genpoly_succ, getD_polyadd (by simp), getD_append_zero, List.getD_cons_succ, hmap, gfmul_comm]

/-- R152: the last entry of the next generator. -/
theorem getD_genpoly_succ_last (n : Nat) :
    (genpoly (n + 1)).getD (n + 1) 0#8 = gfmul ((genpoly n).getD n 0#8) (gfexp n) := by
  rw [getD_genpoly_succ, List.getD_eq_default _ _ (length_genpoly n).le, BitVec.zero_xor]

/-- R152: the constant term of a generator is the product of the roots. -/
theorem getD_genpoly_last (n : Nat) : (genpoly n).getD n 0#8 = gfexp (n * (n - 1) / 2) := by
  induction n with
  | zero => rfl
  | succ n ih =>
    rw [getD_genpoly_succ_last, ih, gfmul_gfexp_gfexp, ← Nat.triangle_succ]

/-- The roots of a generator are the powers of 2 its factors name. -/
theorem polyEval_genpoly_eq_zero_iff (n : Nat) : polyEval (genpoly n) x = 0#8 ↔ ∃ i, i < n ∧ x = gfexp i := by
  induction n with
  | zero => simp [genpoly]
  | succ n ih =>
    -- The new factor is 0 at EXP[n] alone.
    have hfactor : polyEval [1#8, gfexp n] x = x ^^^ gfexp n := by simp [polyEval]
    rw [genpoly, polyEval_polymul x (genpoly_ne_nil n), hfactor, gfmul_eq_zero_iff, ih, BitVec.xor_eq_zero_iff]
    simp only [Nat.lt_succ_iff_lt_or_eq, or_and_right, exists_or, exists_eq_left]

end Sys2Proof.Machine

namespace Sys2Proof.Proofs

open Sys2Proof.Machine

/-- Settles O41: the step in place gives each entry from two of the generator before. -/
theorem genpolyShape : Obligations.GenpolyShape := by
  unfold Obligations.GenpolyShape
  intro n
  have hlen : n < (genpoly n).length := by simp
  refine ⟨length_genpoly n, ?_, ?_, gfexp_ne_zero _, fun j hj _ => ?_, getD_genpoly_succ_last n⟩
  · obtain ⟨t, ht, -⟩ := genpoly_eq_one_cons n
    rw [ht, List.getElem?_cons_zero]
  · rw [gfexp_mod, ← getD_genpoly_last, List.getElem?_eq_getElem hlen, List.getD_eq_getElem _ _ hlen]
  · obtain ⟨j, rfl⟩ := Nat.exists_eq_add_of_le' hj
    exact getD_genpoly_succ n j

/-- Settles O42: the value of a product is 0 exactly where a factor's is. -/
theorem genpolyRoots : Obligations.GenpolyRoots := by
  unfold Obligations.GenpolyRoots
  exact fun n x => polyEval_genpoly_eq_zero_iff x n

/-- Settles O43, by Horner's rule for the second factor. -/
theorem polymulIsProduct : Obligations.PolymulIsProduct := by
  unfold Obligations.PolymulIsProduct
  exact fun p q x hp _ => ⟨length_polymul p q, polyEval_polymul x hp q⟩

end Sys2Proof.Proofs
end

section
/-!
PROOFS. The remainder (41_reed_solomon R153, R154). A round of the division keeps the value at every root of the divisor, so the
remainder has the value of the shifted data there; and it is linear in what it divides.
-/

namespace Sys2Proof.Machine

variable (x : Byte)

/-! ## The division -/

@[simp] theorem xorInto_nil_right (m : List Byte) : xorInto m [] = m := by
  cases m <;> rfl

/-- XOR into the first entries adds the value of the entries, shifted by the places left. -/
theorem polyEval_xorInto : ∀ {m d : List Byte}, d.length ≤ m.length →
    polyEval (xorInto m d) x =
      polyEval m x ^^^ gfmul (polyEval d x) (gfpow x (m.length - d.length))
  | m, [], _ => by simp
  | a :: m, b :: d, h => by
    have hd : d.length ≤ m.length := by simpa using h
    have hpow : gfmul (gfpow x d.length) (gfpow x (m.length - d.length)) = gfpow x m.length := by
      rw [← gfpow_add, Nat.add_sub_cancel' hd]
    simp only [xorInto, polyEval_cons, length_xorInto, polyEval_xorInto hd, List.length_cons, Nat.add_sub_add_right,
      xor_gfmul, gfmul_assoc, hpow]
    ac_rfl

theorem divStep_cons (g : List Byte) (c : Byte) (m : List Byte) :
    divStep g (c :: m) = xorInto m (g.tail.map (gfmul c)) := by
  simp only [divStep, gfmul_comm _ c]

/-- A round of the division keeps the value at every root of the divisor. -/
theorem polyEval_divStep {t : List Byte} (hroot : polyEval (1#8 :: t) x = 0#8) {m : List Byte}
    (hm : t.length < m.length) : polyEval (divStep (1#8 :: t) m) x = polyEval m x := by
  cases m with
  | nil => simp at hm
  | cons c m =>
    have hlen : t.length ≤ m.length := by simp at hm; omega
    have htail : polyEval t x = gfpow x t.length := by
      rw [polyEval_cons, one_gfmul, BitVec.xor_eq_zero_iff] at hroot
      exact hroot.symm
    rw [divStep_cons, List.tail_cons, polyEval_xorInto x (by simpa using hlen), polyEval_scale, htail, List.length_map,
      gfmul_assoc, ← gfpow_add, Nat.add_sub_cancel' hlen, polyEval_cons, BitVec.xor_comm]

theorem polyEval_divSteps {t : List Byte} (hroot : polyEval (1#8 :: t) x = 0#8) : ∀ {k : Nat} {m : List Byte},
    t.length + k ≤ m.length → polyEval (divSteps (1#8 :: t) k m) x = polyEval m x
  | 0, _, _ => rfl
  | k + 1, m, hm => by
    rw [divSteps, polyEval_divSteps hroot (by simp; omega), polyEval_divStep x hroot (by omega)]

theorem xorInto_polyadd : ∀ {m₁ m₂ d₁ d₂ : List Byte}, m₁.length = m₂.length → d₁.length = d₂.length →
    xorInto (polyadd m₁ m₂) (polyadd d₁ d₂) = polyadd (xorInto m₁ d₁) (xorInto m₂ d₂)
  | m₁, m₂, [], [], _, _ => by simp
  | [], [], _ :: _, _ :: _, _, _ => rfl
  | a :: m₁, b :: m₂, c :: d₁, d :: d₂, hm, hd => by
    have ih := xorInto_polyadd (m₁ := m₁) (m₂ := m₂) (d₁ := d₁) (d₂ := d₂) (by simpa using hm) (by simpa using hd)
    simp only [polyadd_cons, xorInto, ih]
    congr 1
    ac_rfl

theorem divStep_polyadd (g : List Byte) {m₁ m₂ : List Byte} (h : m₁.length = m₂.length) :
    divStep g (polyadd m₁ m₂) = polyadd (divStep g m₁) (divStep g m₂) := by
  match m₁, m₂, h with
  | [], [], _ => rfl
  | a :: m₁, b :: m₂, h =>
    rw [polyadd_cons, divStep_cons, divStep_cons, divStep_cons, scale_xor, xorInto_polyadd (by simpa using h) (by simp)]

theorem divSteps_polyadd (g : List Byte) : ∀ {k : Nat} {m₁ m₂ : List Byte}, m₁.length = m₂.length →
    divSteps g k (polyadd m₁ m₂) = polyadd (divSteps g k m₁) (divSteps g k m₂)
  | 0, _, _, _ => rfl
  | k + 1, _, _, h => by
    rw [divSteps, divStep_polyadd g h, divSteps_polyadd g (by simp [h])]
    rfl

theorem xorInto_scale (a : Byte) : ∀ m d : List Byte,
    xorInto (m.map (gfmul a)) (d.map (gfmul a)) = (xorInto m d).map (gfmul a)
  | m, [] => by simp
  | [], _ :: _ => rfl
  | b :: m, c :: d => by simp [xorInto, gfmul_xor, xorInto_scale a m d]

theorem divStep_scale (g : List Byte) (a : Byte) (m : List Byte) :
    divStep g (m.map (gfmul a)) = (divStep g m).map (gfmul a) := by
  cases m with
  | nil => rfl
  | cons c m =>
    have hmap : g.tail.map (gfmul (gfmul a c)) = (g.tail.map (gfmul c)).map (gfmul a) := by
      rw [List.map_map]
      exact List.map_congr_left fun y _ => gfmul_assoc a c y
    rw [List.map_cons, divStep_cons, divStep_cons, hmap, xorInto_scale]

theorem divSteps_scale (g : List Byte) (a : Byte) : ∀ (k : Nat) (m : List Byte),
    divSteps g k (m.map (gfmul a)) = (divSteps g k m).map (gfmul a)
  | 0, _ => rfl
  | k + 1, m => by rw [divSteps, divStep_scale, divSteps_scale]; rfl

theorem xorInto_replicate_zero : ∀ (m : List Byte) (k : Nat), xorInto m (List.replicate k 0#8) = m
  | [], 0 => rfl
  | [], _ + 1 => rfl
  | _ :: _, 0 => rfl
  | c :: m, k + 1 => by simp [xorInto, List.replicate_succ, xorInto_replicate_zero m k]

theorem replicate_zero_xorInto (d : List Byte) : xorInto (List.replicate d.length 0#8) d = d := by
  induction d with
  | nil => rfl
  | cons y d ih => simp [xorInto, List.replicate_succ, ih]

theorem divStep_zero_cons (g m : List Byte) : divStep g (0#8 :: m) = m := by
  simp [divStep, xorInto_replicate_zero]

/-! ## The remainder -/

@[simp] theorem length_rsrem (data : List Byte) (n : Nat) : (rsrem data n).length = n := length_rsremBy _ _ _

/-- At a root of the generator the remainder has the value of the data shifted by n places. -/
theorem polyEval_rsrem (data : List Byte) {n i : Nat} (hi : i < n) :
    polyEval (rsrem data n) (gfexp i) = polyEval (data ++ List.replicate n 0#8) (gfexp i) := by
  obtain ⟨t, hg, ht⟩ := genpoly_eq_one_cons n
  have hroot := (polyEval_genpoly_eq_zero_iff (gfexp i) n).mpr ⟨i, hi, rfl⟩
  rw [hg] at hroot
  rw [rsrem, rsremBy, hg, polyEval_divSteps _ hroot (by simp [ht, Nat.add_comm])]

theorem rsrem_polyadd {d₁ d₂ : List Byte} (n : Nat) (h : d₁.length = d₂.length) :
    rsrem (polyadd d₁ d₂) n = polyadd (rsrem d₁ n) (rsrem d₂ n) := by
  have hpad : polyadd d₁ d₂ ++ List.replicate n 0#8 =
      polyadd (d₁ ++ List.replicate n 0#8) (d₂ ++ List.replicate n 0#8) := by
    rw [polyadd_append h, polyadd_replicate_zero]
  simp only [rsrem, rsremBy, hpad, length_polyadd, h, Nat.min_self]
  exact divSteps_polyadd _ (by simp [h])

theorem rsrem_scale (a : Byte) (d : List Byte) (n : Nat) : rsrem (d.map (gfmul a)) n = (rsrem d n).map (gfmul a) := by
  simp [rsrem, rsremBy, ← divSteps_scale]

theorem rsrem_zero_cons (d : List Byte) (n : Nat) : rsrem (0#8 :: d) n = rsrem d n := by
  simp [rsrem, rsremBy, divSteps, divStep_zero_cons]

theorem rsrem_one (n : Nat) : rsrem [1#8] n = (genpoly n).tail := by
  have hlen : (genpoly n).tail.length = n := by simp
  have hone : (genpoly n).tail.map (gfmul 1#8) = (genpoly n).tail := by simp [funext one_gfmul]
  calc rsrem [1#8] n = divStep (genpoly n) (1#8 :: List.replicate n 0#8) := rfl
    _ = xorInto (List.replicate (genpoly n).tail.length 0#8) (genpoly n).tail := by rw [divStep_cons, hone, hlen]
    _ = (genpoly n).tail := replicate_zero_xorInto _

end Sys2Proof.Machine

namespace Sys2Proof.Proofs

open Sys2Proof.Machine

/-- Settles O44: at a root of the generator the remainder has the value of the shifted data, and the two cancel. -/
theorem remainderMakesCodeword : Obligations.RemainderMakesCodeword := by
  unfold Obligations.RemainderMakesCodeword
  refine fun data n => ⟨length_rsrem data n, fun i hi => ?_⟩
  rw [polyEval_append, polyEval_rsrem data hi, polyEval_append, length_rsrem, List.length_replicate,
    polyEval_replicate_zero, BitVec.xor_zero, BitVec.xor_self]

/-- Settles O45: every round of the division is linear, and a round with leading entry 0 only takes it away. -/
theorem remainderIsLinear : Obligations.RemainderIsLinear := by
  unfold Obligations.RemainderIsLinear
  exact ⟨fun _ _ n h => rsrem_polyadd n h, rsrem_scale, rsrem_zero_cons, rsrem_one,
    fun d => List.eq_nil_of_length_eq_zero (length_rsrem d 0)⟩

end Sys2Proof.Proofs
end

section
/-!
PROOFS. The Reed-Solomon operations (41_reed_solomon R155 to R163): what each answers where its checks pass and where they do
not.
-/

namespace Sys2Proof.Machine

open Sys2Proof.Spec

variable {s : State}

/-! ## Operations that write -/

theorem execRsSetn_of_range {b : Byte} (h : b = 0#8 ∨ s.cfg.nMax < b.toNat) : execRsSetn b s = raise .range s :=
  if_pos h

theorem execRsSetn_of_legal {b : Byte} (h0 : b ≠ 0#8) (h : b.toNat ≤ s.cfg.nMax) :
    execRsSetn b s = ack { s with n := b, genv := false, remv := false, zst := abortedZst s } := by
  rw [execRsSetn, if_neg (not_or.mpr ⟨h0, Nat.not_lt.mpr h⟩), dropRemainder_eq]
  rfl

theorem execRsGen_of_unset (h : s.n = 0#8) : execRsGen s = raise .rsState s := if_pos h

theorem execRsGen_of_set (h : s.n ≠ 0#8) :
    execRsGen s = ack { s with gen := writeCells s.gen 0 (genpoly s.n.toNat), genv := true } := if_neg h

theorem execRsClr_eq (s : State) : execRsClr s = ack { s with k := 0#8, remv := false, zst := abortedZst s } := by
  rw [execRsClr, dropRemainder_eq]
  rfl

theorem execRsPush_of_full (h : s.k.toNat = s.cfg.kMax) (b : Byte) : execRsPush b s = raise .rsFull s := if_pos h

theorem execRsPush_of_room (h : s.k.toNat < s.cfg.kMax) (b : Byte) :
    execRsPush b s = ack { s with
      dbuf := Memory.write unlistedByte s.dbuf s.k.toNat b, k := s.k + 1#8, remv := false, zst := abortedZst s } := by
  rw [execRsPush, if_neg h.ne, dropRemainder_eq]
  rfl

theorem execRsEnc_of_missing (h : s.genv = false ∨ s.k = 0#8) : execRsEnc s = raise .rsState s := by
  unfold execRsEnc
  split
  · rfl
  · next hg => exact if_pos (h.resolve_left hg)

/-- With the generator in GEN the remainder written is rsrem of the data. -/
theorem execRsEnc_of_ready {data : List Byte} (hg : s.genv = true) (hk : s.k ≠ 0#8)
    (hdata : readCells s.dbuf 0 s.k.toNat = some data)
    (hgen : readCells s.gen 0 (s.n.toNat + 1) = some (genpoly s.n.toNat)) :
    execRsEnc s = ack { s with rem := writeCells s.rem 0 (rsrem data s.n.toNat), remv := true } := by
  simp [execRsEnc, hg, hk, hdata, hgen, rsrem]

/-! ## Operations that read -/

theorem execRsRdgen_of_invalid (hg : s.genv = false) (b : Byte) : execRsRdgen b s = raise .rsState s := if_pos hg

theorem execRsRdgen_of_range {b : Byte} (hg : s.genv = true) (hb : s.n.toNat < b.toNat) :
    execRsRdgen b s = raise .range s := by
  simp [execRsRdgen, hg, hb]

theorem execRsRdgen_of_cell {b v : Byte} (hg : s.genv = true) (hb : b.toNat ≤ s.n.toNat)
    (hv : Memory.read unlistedByte s.gen b.toNat = some v) : execRsRdgen b s = respond (v.setWidth 32) s := by
  simp [execRsRdgen, hg, Nat.not_lt.mpr hb, hv, respondCell]

theorem execRsRdrem_of_invalid (hr : s.remv = false) (b : Byte) : execRsRdrem b s = raise .rsState s := if_pos hr

theorem execRsRdrem_of_range {b : Byte} (hr : s.remv = true) (hb : s.n.toNat ≤ b.toNat) :
    execRsRdrem b s = raise .range s := by
  simp [execRsRdrem, hr, hb]

theorem execRsRdrem_of_cell {b v : Byte} (hr : s.remv = true) (hb : b.toNat < s.n.toNat)
    (hv : Memory.read unlistedByte s.rem b.toNat = some v) : execRsRdrem b s = respond (v.setWidth 32) s := by
  simp [execRsRdrem, hr, Nat.not_le.mpr hb, hv, respondCell]

theorem execRsRddat_of_range {b : Byte} (hb : s.k.toNat ≤ b.toNat) : execRsRddat b s = raise .range s := if_pos hb

theorem execRsRddat_of_cell {b v : Byte} (hb : b.toNat < s.k.toNat)
    (hv : Memory.read unlistedByte s.dbuf b.toNat = some v) : execRsRddat b s = respond (v.setWidth 32) s := by
  simp [execRsRddat, Nat.not_le.mpr hb, hv, respondCell]

theorem execRsRdbit_of_invalid (hr : s.remv = false) (w : Half) : execRsRdbit w s = raise .rsState s := if_pos hr

theorem execRsRdbit_of_range {w : Half} (hr : s.remv = true) (hw : bitLength s ≤ w.toNat) :
    execRsRdbit w s = raise .range s := by
  simp [execRsRdbit, hr, hw]

/-- A bit as a word is a digit of the number in base 2. -/
theorem setWidth_ofBool_getLsbD (c : Byte) (i : Nat) :
    (BitVec.ofBool (c.getLsbD i)).setWidth 32 = BitVec.ofNat 32 (c.toNat / 2 ^ i % 2) := by
  rw [← Nat.toNat_testBit, BitVec.testBit_toNat]
  cases c.getLsbD i <;> rfl

/-- RS.RDBIT answers bit 7 - (w mod 8) of codeword w div 8 (20_memory R66). -/
theorem execRsRdbit_of_codeword {w : Half} {c : Byte} (hr : s.remv = true) (hw : w.toNat < bitLength s)
    (hc : fcw s (w.toNat / 8) = some c) :
    execRsRdbit w s = respond (BitVec.ofNat 32 (c.toNat / 2 ^ (7 - w.toNat % 8) % 2)) s := by
  have hbit : fbit s w.toNat = some (c.getLsbD (7 - w.toNat % 8)) := by simp [fbit, hc]
  simp only [execRsRdbit, hr, Nat.not_le.mpr hw, hbit, setWidth_ofBool_getLsbD, if_false, Bool.true_eq_false]

end Sys2Proof.Machine

namespace Sys2Proof.Proofs

open Sys2Proof.Machine Sys2Proof.Spec

/-- Settles O34: the check of the range, and the flags dropped. -/
theorem rsSetnResult : Obligations.RsSetnResult := by
  unfold Obligations.RsSetnResult
  exact fun b s => ⟨⟨rfl, rfl⟩, execRsSetn_of_range, execRsSetn_of_legal⟩

/-- Settles O35: genpoly(N) has N + 1 entries, so the bulk write covers GEN[0..N] and nothing else. -/
theorem rsGenResult : Obligations.RsGenResult := by
  unfold Obligations.RsGenResult
  refine fun s => ⟨⟨rfl, rfl⟩, execRsGen_of_unset, fun hn hwf =>
    ⟨_, execRsGen_of_set hn, fun i hi => ?_, fun i hi => ?_⟩⟩
  · rw [read_writeCells _ i hwf, length_genpoly, if_pos (by omega), Nat.sub_zero]
  · rw [read_writeCells _ i hwf, length_genpoly, if_neg (by omega)]

/-- Settles O36: the operation is its rule. -/
theorem rsClrResult : Obligations.RsClrResult := by
  unfold Obligations.RsClrResult
  exact ⟨⟨rfl, rfl⟩, execRsClr_eq⟩

/-- Settles O37: one cell written, and K + 1 fits its 8 bits below K_MAX. -/
theorem rsPushResult : Obligations.RsPushResult := by
  unfold Obligations.RsPushResult
  refine fun b s => ⟨⟨rfl, rfl⟩, fun hk => execRsPush_of_full hk b, fun hk hvalid hwf =>
    ⟨_, _, execRsPush_of_room hk b, ?_, Memory.read_write_same _ b hwf, fun i hi => Memory.read_write_other b hi⟩⟩
  have hmax : s.cfg.kMax ≤ 255 := hvalid.1.2
  rw [BitVec.toNat_add, show (1#8).toNat = 1 from rfl, Nat.mod_eq_of_lt (by omega)]

/-- Settles O38: the remainder has N entries, so the bulk write covers REM[0..N-1] and nothing else. -/
theorem rsEncResult : Obligations.RsEncResult := by
  unfold Obligations.RsEncResult
  refine fun s => ⟨⟨rfl, rfl⟩, execRsEnc_of_missing, fun data hg hk hwf hdata hgen =>
    ⟨_, execRsEnc_of_ready hg hk hdata hgen, fun i hi => ?_, fun i hi => ?_⟩⟩
  · rw [read_writeCells _ i hwf, length_rsrem, if_pos (by omega), Nat.sub_zero]
  · rw [read_writeCells _ i hwf, length_rsrem, if_neg (by omega)]

/-- Settles O39: the checks of the three reads in their order, and the cell. -/
theorem rsCellReads : Obligations.RsCellReads := by
  unfold Obligations.RsCellReads
  exact fun b v s => ⟨⟨⟨rfl, rfl⟩, ⟨rfl, rfl⟩, ⟨rfl, rfl⟩⟩,
    fun hg => execRsRdgen_of_invalid hg b, execRsRdgen_of_range, execRsRdgen_of_cell,
    fun hr => execRsRdrem_of_invalid hr b, execRsRdrem_of_range, execRsRdrem_of_cell,
    execRsRddat_of_range, execRsRddat_of_cell⟩

/-- Settles O40: a bit of a codeword is a digit of its number. -/
theorem rsRdbitResult : Obligations.RsRdbitResult := by
  unfold Obligations.RsRdbitResult
  exact fun w s => ⟨⟨rfl, rfl⟩, fun hr => execRsRdbit_of_invalid hr w, execRsRdbit_of_range,
    fun c => execRsRdbit_of_codeword⟩

end Sys2Proof.Proofs
end

section
/-!
PROOFS. The traversal of a version's side (42_zigzag R190 to R196, R201, R210 to R212): SIZE is odd and at least 21, so there are
S*(S-1) probes, advancing walks them one by one, and the sequence holds the writable cells outside column 6.
-/

namespace Sys2Proof.Machine

open Sys2Proof.Spec

/-! ## The side of a version -/

theorem sideOfVersion_odd (v : Nat) : sideOfVersion v % 2 = 1 := by
  simp only [sideOfVersion]; omega

theorem sideOfVersion_ge {v : Nat} (hv : 1 ≤ v) : 21 ≤ sideOfVersion v := by
  simp only [sideOfVersion]; omega

theorem sideOfVersion_le {v : Nat} (hv : v ≤ 59) : sideOfVersion v ≤ 253 := by
  simp only [sideOfVersion]; omega

section Side

variable {side : Nat}

/-! ## The probes in order -/

/-- SIZE is odd, so the SIZE-1 columns outside column 6 form whole pairs (42_zigzag R191). -/
theorem two_mul_pairCount (hodd : side % 2 = 1) : 2 * pairCount side = side - 1 := by
  simp only [pairCount]; omega

/-- There are S*(S-1) probes (42_zigzag R193). -/
theorem length_probes_of_odd (hodd : side % 2 = 1) : (probes side).length = side * (side - 1) := by
  rw [length_probes, Nat.mul_left_comm, two_mul_pairCount hodd]

/-- A cursor of the grid has fewer probes before it than there are. -/
theorem Cursor.onGrid.rank_lt {c : Cursor} (h : c.onGrid side) : c.rank side < (probes side).length :=
  (List.getElem?_eq_some_iff.mp (getElem?_rank h)).1

/-- The cursor at the end has every probe before it (42_zigzag R210). -/
theorem rank_end (side : Nat) : Cursor.rank side ⟨pairCount side, 0, false⟩ = (probes side).length := by
  simp [Cursor.rank]

theorem getElem?_probes_zero (hside : 3 ≤ side) : (probes side)[0]? = some ⟨0, 0, false⟩ := by
  have hgrid : Cursor.onGrid side ⟨0, 0, false⟩ := ⟨by simp only [pairCount]; omega, by simp only; omega⟩
  simpa [Cursor.rank] using getElem?_rank hgrid

/-- Advancing goes to the next probe, and from the last one to the end (42_zigzag R212). -/
theorem advance_of_getElem? {m : Nat} {c : Cursor} (h : (probes side)[m]? = some c) :
    if m + 1 = (probes side).length then c.advance side = ⟨pairCount side, 0, false⟩
    else (probes side)[m + 1]? = some (c.advance side) := by
  have hgrid : c.onGrid side := mem_probes.mp (List.mem_of_getElem? h)
  have hrank : (c.advance side).rank side = m + 1 := by rw [rank_advance hgrid.2, rank_of_getElem? h]
  rcases Cursor.advance_onGrid hgrid with hnext | hend
  · rw [if_neg (hrank ▸ hnext.rank_lt.ne), ← hrank]
    exact getElem?_rank hnext
  · rw [if_pos (by rw [← hrank, hend, rank_end])]
    exact hend

/-! ## The sequence -/

/-- The sequence holds the writable cells outside column 6 (42_zigzag R194, R195). -/
theorem mem_zzseq (hodd : side % 2 = 1) (hside : 7 ≤ side) {fixed : Nat → Nat → Bool} {r k : Nat} :
    (r, k) ∈ zzseq side fixed ↔ r < side ∧ k < side ∧ k ≠ 6 ∧ fixed r k = false := by
  rw [zzseq, List.mem_filter, mem_cells hodd hside]
  simp [and_assoc]

/-- No position of the sequence repeats (42_zigzag R195). -/
theorem nodup_zzseq (hodd : side % 2 = 1) (fixed : Nat → Nat → Bool) : (zzseq side fixed).Nodup :=
  (nodup_cells hodd).filter _

/-- There are no more positions than probes (42_zigzag R201). -/
theorem length_zzseq_le (hodd : side % 2 = 1) (fixed : Nat → Nat → Bool) :
    (zzseq side fixed).length ≤ side * (side - 1) := by
  rw [← length_probes_of_odd hodd, ← List.length_map (cellAt side)]
  exact List.length_filter_le _ _

/-- The positions of a side of at most 253 fit ZIDX (42_zigzag R201). -/
theorem length_zzseq_lt (hodd : side % 2 = 1) (hmax : side ≤ 253) (fixed : Nat → Nat → Bool) :
    (zzseq side fixed).length < 65536 :=
  calc (zzseq side fixed).length ≤ side * (side - 1) := length_zzseq_le hodd fixed
    _ ≤ 253 * 252 := Nat.mul_le_mul hmax (by omega)
    _ < 65536 := by decide

/-! ## The column pairs -/

theorem rightCol_first (hside : 9 ≤ side) : rightCol side 0 = side - 1 := by
  rw [rightCol, if_pos (by omega)]
  omega

theorem rightCol_last (hodd : side % 2 = 1) (hside : 9 ≤ side) : rightCol side (pairCount side - 1) = 1 := by
  simp only [pairCount]
  rw [rightCol, if_neg (by omega)]
  omega

/-- The right column goes down by 2, and by 3 where column 6 is passed (42_zigzag R191). -/
theorem rightCol_succ (hodd : side % 2 = 1) (j : Nat) :
    rightCol side (j + 1) = if rightCol side j = 8 then 5 else rightCol side j - 2 := by
  simp only [rightCol]
  split <;> split <;> split <;> omega

/-- The cell under a cursor, the left column as h = 1 (42_zigzag R193). -/
theorem cellAt_eq (side j t : Nat) (h : Bool) : cellAt side ⟨j, t, h⟩ = (rowAt side j t, rightCol side j - h.toNat) := by
  cases h <;> rfl

end Side

end Sys2Proof.Machine

namespace Sys2Proof.Proofs

open Sys2Proof.Machine Sys2Proof.Spec

/-- Settles O53: different probes stand on different cells, and those are the cells outside column 6. -/
theorem sequenceVisitsOnce : Obligations.SequenceVisitsOnce := by
  unfold Obligations.SequenceVisitsOnce
  intro v fixed hv
  have hodd := sideOfVersion_odd v
  have hside : 7 ≤ sideOfVersion v := (by decide : 7 ≤ 21).trans (sideOfVersion_ge hv)
  exact ⟨nodup_cells hodd, fun _ _ => mem_cells hodd hside, nodup_zzseq hodd fixed, fun _ _ => mem_zzseq hodd hside⟩

/-- Settles O54: the probes visit the cells zzcount counts, in another order. -/
theorem sequenceLengthIsCount : Obligations.SequenceLengthIsCount := by
  unfold Obligations.SequenceLengthIsCount
  intro v fixed hv
  have hodd := sideOfVersion_odd v
  have hside : 7 ≤ sideOfVersion v := (by decide : 7 ≤ 21).trans (sideOfVersion_ge hv)
  rw [← length_zzseq hodd hside]
  exact ⟨rfl, length_zzseq_le hodd fixed, fun hv' => length_zzseq_lt hodd (sideOfVersion_le hv') fixed⟩

/-- Settles O55: a cursor's rank is its place among the probes, and advancing adds 1 to it. -/
theorem advanceWalksProbes : Obligations.AdvanceWalksProbes := by
  unfold Obligations.AdvanceWalksProbes
  intro v hv
  rw [← length_probes_of_odd (sideOfVersion_odd v)]
  exact ⟨rfl, getElem?_probes_zero ((by decide : 3 ≤ 21).trans (sideOfVersion_ge hv)), fun _ _ => advance_of_getElem?⟩

/-- Settles O56: the formula of the right column, and the row by the parity of the pair. -/
theorem pairsSkipColumnSix : Obligations.PairsSkipColumnSix := by
  unfold Obligations.PairsSkipColumnSix
  intro v hv
  have hodd := sideOfVersion_odd v
  have hside : 9 ≤ sideOfVersion v := (by decide : 9 ≤ 21).trans (sideOfVersion_ge hv)
  exact ⟨fun _ _ => rfl, fun j t h _ _ => cellAt_eq _ j t h, rightCol_first hside, rightCol_last hodd hside,
    fun j _ => rightCol_succ hodd j, fun _ _ _ _ => rfl⟩

end Sys2Proof.Proofs
end

section
/-!
PROOFS. The sequencer operations (42_zigzag R202 to R208, R214, R216): what each answers where its checks pass and where they do
not, and that ZZ.NEXT walks the sequence: from a cursor on the way the scan finds position ZIDX of it, or the end.
-/

namespace Sys2Proof.Machine

open Sys2Proof.Spec

variable {s : State}

/-- SIZE of a state with a version, as a number (10_state R35). -/
theorem sideOfVersion_ver (hv : s.ver ≠ 0#6) : sideOfVersion s.ver.toNat = sideOf s := (sideOf_eq hv).symm

/-! ## The version and the plane -/

theorem execZzSetver_of_range {b : Byte} (h : b = 0#8 ∨ s.cfg.vMax < b.toNat) : execZzSetver b s = raise .range s :=
  if_pos h

theorem execZzSetver_of_legal {b : Byte} (h0 : b ≠ 0#8) (h : b.toNat ≤ s.cfg.vMax) :
    execZzSetver b s = respond (BitVec.ofNat 32 (sideOfVersion b.toNat))
      { s with ver := b.setWidth 6, fixed := clearPlane s.fixed (sideOfVersion b.toNat), zst := .idle, zmode := false,
               zp := 0#8, zt := 0#8, zh := false, zidx := 0#16 } := by
  have hsize : size b.toNat = sideOfVersion b.toNat := size_eq fun hz => h0 (BitVec.eq_of_toNat_eq hz)
  rw [execZzSetver, if_neg (not_or.mpr ⟨h0, Nat.not_lt.mpr h⟩), hsize]
  rfl

theorem execZzFix_of_unset (hv : s.ver = 0#6) (a b : Byte) : execZzFix a b s = raise .zzState s := if_pos hv

theorem execZzFix_of_range {a b : Byte} (hv : s.ver ≠ 0#6) (h : sideOf s ≤ a.toNat ∨ sideOf s ≤ b.toNat) :
    execZzFix a b s = raise .range s := by
  rw [execZzFix, if_neg hv, if_pos h]

theorem execZzFix_of_cell {a b : Byte} (hv : s.ver ≠ 0#6) (ha : a.toNat < sideOf s) (hb : b.toNat < sideOf s) :
    execZzFix a b s = ack { s with fixed := fixCell s.fixed a.toNat b.toNat, zst := .idle } := by
  rw [execZzFix, if_neg hv, if_neg (not_or.mpr ⟨Nat.not_le.mpr ha, Nat.not_le.mpr hb⟩)]

theorem execZzRdfix_of_unset (hv : s.ver = 0#6) (a b : Byte) : execZzRdfix a b s = raise .zzState s := if_pos hv

/-- A cell of the plane as a word. -/
theorem setWidth_ofBool_isFixed (r c : Nat) : (BitVec.ofBool (isFixed s r c)).setWidth 32 =
    if Memory.read unlistedFixed s.fixed (planeIndex r c) = some 1#1 then 1#32 else 0#32 := by
  by_cases h : Memory.read unlistedFixed s.fixed (planeIndex r c) = some 1#1
  · rw [if_pos h, isFixed, h]
    rfl
  · rw [if_neg h, isFixed, beq_eq_false_iff_ne.mpr h]
    rfl

theorem execZzRdfix_of_set (hv : s.ver ≠ 0#6) (a b : Byte) :
    execZzRdfix a b s = if sideOf s ≤ a.toNat ∨ sideOf s ≤ b.toNat then raise .range s
      else respond (if Memory.read unlistedFixed s.fixed (planeIndex a.toNat b.toNat) = some 1#1 then 1#32 else 0#32) s := by
  rw [execZzRdfix, if_neg hv, setWidth_ofBool_isFixed]

theorem execZzCount_of_unset (hv : s.ver = 0#6) : execZzCount s = raise .zzState s := if_pos hv

theorem execZzCount_of_set (hv : s.ver ≠ 0#6) : execZzCount s = respond (BitVec.ofNat 32 (countOf s)) s := if_neg hv

/-! ## The sequence and the cursor -/

section Scan

variable {side fuel m : Nat} {fixed : Nat → Nat → Bool} {c d : Cursor} {p : Nat × Nat}

/-- The place of a writable cell in the sequence is the number of writable cells before it (42_zigzag R194, R198). -/
theorem getElem?_zzseq_writableBefore (hd : d.onGrid side) (hw : writableAt side fixed d = true) :
    (zzseq side fixed)[writableBefore side fixed d]? = some (cellAt side d) := by
  have hsplit : (probes side).take (d.rank side) ++ d :: (probes side).drop (d.rank side + 1) = probes side := by
    obtain ⟨hlt, hget⟩ := List.getElem?_eq_some_iff.mp (getElem?_rank hd)
    have hdrop := List.drop_eq_getElem_cons hlt
    rw [hget] at hdrop
    rw [← hdrop, List.take_append_drop]
  have hseq : zzseq side fixed = ((probes side).filter (writableAt side fixed)).map (cellAt side) := List.filter_map
  rw [hseq, ← hsplit, List.filter_append, List.filter_cons_of_pos hw, writableBefore_eq_take fixed hd.2,
    List.countP_eq_length_filter]
  simp

theorem Cursor.advanceBy_succ' (side m : Nat) (c : Cursor) :
    c.advanceBy side (m + 1) = (c.advanceBy side m).advance side := by
  induction m generalizing c with
  | zero => rfl
  | succ m ih => rw [Cursor.advanceBy_succ, ih, Cursor.advanceBy_succ]

/-- Each cell skipped is one rank further. -/
theorem rank_advanceBy (h : Skips side fixed c m) :
    (c.advanceBy side m).rank side = c.rank side + m := by
  induction m with
  | zero => rfl
  | succ m ih =>
    have hgrid := (h m m.lt_succ_self).1
    rw [Cursor.advanceBy_succ', rank_advance hgrid.2, ih fun k hk => h k (hk.trans m.lt_succ_self), Nat.add_assoc]

/-- No scan skips more cells than there are probes (42_zigzag R215). -/
theorem Skips.le_length (h : Skips side fixed c m) : m ≤ (probes side).length := by
  cases m with
  | zero => exact Nat.zero_le _
  | succ m =>
    have hlt := (h m m.lt_succ_self).1.rank_lt
    rw [rank_advanceBy fun k hk => h k (hk.trans m.lt_succ_self)] at hlt
    omega

/-- Skipping cells leads from the grid to the grid or to the first cursor of the end. -/
theorem Skips.onGrid_or_end (h : Skips side fixed c (m + 1)) :
    (c.advanceBy side (m + 1)).onGrid side ∨ c.advanceBy side (m + 1) = ⟨pairCount side, 0, false⟩ := by
  rw [Cursor.advanceBy_succ']
  exact Cursor.advance_onGrid (h m m.lt_succ_self).1

/-- Where a scan comes to an end, it does so at the cursor it began with or at the first cursor of the end (42_zigzag R205, R212). -/
theorem scan_atEnd_cursor (h : scan side fixed fuel c = .atEnd d) :
    d.pair = pairCount side ∧ (c.pair = pairCount side → d = c) ∧
      (c.pair ≠ pairCount side → d = ⟨pairCount side, 0, false⟩) := by
  obtain ⟨m, _, hskip, ⟨_, _, _, hr⟩ | ⟨_, hend, hr⟩ | ⟨hr, _⟩⟩ := scan_cases side fixed fuel c
  · cases hr.symm.trans h
  · cases hr.symm.trans h
    refine ⟨hend, ?_⟩
    cases m with
    | zero => exact ⟨fun _ => rfl, fun hne => absurd hend hne⟩
    | succ m =>
      have hgrid : c.onGrid side := (hskip 0 m.succ_pos).1
      exact ⟨fun heq => absurd heq hgrid.1.ne, fun _ => hskip.onGrid_or_end.resolve_left fun hg => hg.1.ne hend⟩
  · cases hr.symm.trans h

/-- A scan finds the sequence's position of its place: as many writable cells come before it as before the cursor (42_zigzag R205). -/
theorem scan_found_position (hs : c.step < side) (h : scan side fixed fuel c = .found p d) :
    (zzseq side fixed)[writableBefore side fixed c]? = some p ∧
      ∃ e, e.onGrid side ∧ cellAt side e = p ∧ e.advance side = d := by
  obtain ⟨m, _, hskip, ⟨_, hgrid, hfree, hr⟩ | ⟨_, _, hr⟩ | ⟨hr, _⟩⟩ := scan_cases side fixed fuel c
  · cases hr.symm.trans h
    rw [← (writableBefore_skips hs hskip).2]
    exact ⟨getElem?_zzseq_writableBefore hgrid (by simp [writableAt, hfree]), _, hgrid, rfl, rfl⟩
  · cases hr.symm.trans h
  · cases hr.symm.trans h

/-- From a cursor on the grid or at the end a whole traversal's fuel is enough: the scan finds a cell or comes to the end
(42_zigzag R210, R215). -/
theorem scan_ne_offGrid (hodd : side % 2 = 1) (hp : c.pair ≤ pairCount side) (hs : c.step < side) :
    scan side fixed (scanFuel side) c ≠ .offGrid := by
  intro h
  obtain ⟨m, _, hskip, ⟨_, _, _, hr⟩ | ⟨_, _, hr⟩ | ⟨_, hm | ⟨hne, hoff⟩⟩⟩ := scan_cases side fixed (scanFuel side) c
  · cases hr.symm.trans h
  · cases hr.symm.trans h
  · have hle := hskip.le_length
    rw [length_probes_of_odd hodd, hm, scanFuel] at hle
    omega
  · cases m with
    | zero => exact hoff ⟨Nat.lt_of_le_of_ne hp hne, hs⟩
    | succ m => exact hskip.onGrid_or_end.elim hoff fun he => hne (by rw [he])

end Scan

/-! ## The value of a position -/

theorem placeValue_of_codeword {c : Byte} (hm : s.zmode = true) (hlt : s.zidx.toNat < bitLength s)
    (hc : codeword s (s.zidx.toNat / 8) = some c) :
    placeValue s = some (c.toNat.testBit (7 - s.zidx.toNat % 8)) := by
  rw [placeValue, if_pos ⟨hm, hlt⟩, fbit, show fcw s (s.zidx.toNat / 8) = some c from hc, BitVec.testBit_toNat]
  rfl

theorem placeValue_of_padding (h : s.zmode = false ∨ bitLength s ≤ s.zidx.toNat) : placeValue s = some false := by
  rw [placeValue, if_neg]
  rintro ⟨hm, hlt⟩
  exact h.elim (fun hm' => absurd (hm.symm.trans hm') nofun) fun hle => absurd hlt (Nat.not_lt.mpr hle)

/-- With a remainder every codeword below K+N has a value (20_memory R65). -/
theorem Inv.exists_codeword (h : Inv s) (hr : s.remv = true) {j : Nat} (hj : j < s.k.toNat + s.n.toNat) :
    ∃ c, codeword s j = some c := by
  obtain ⟨-, -, data, hdata, hrem⟩ := h.remainder hr
  obtain ⟨hlen, hread⟩ := readCells_eq_some.mp hdata
  obtain ⟨hlen', hread'⟩ := readCells_eq_some.mp hrem
  unfold codeword
  split
  · next hk =>
    have hcell := hread j hk
    rw [Nat.zero_add, List.getElem?_eq_getElem (by omega)] at hcell
    exact ⟨_, hcell⟩
  · next hk =>
    have hcell := hread' (j - s.k.toNat) (by omega)
    rw [Nat.zero_add, List.getElem?_eq_getElem (by omega)] at hcell
    exact ⟨_, hcell⟩

/-- `v` is the module value of position ZIDX (42_zigzag R198): in place mode its bit of the final bit string, and 0 beyond that and
in positions mode. -/
def IsPlaceValue (s : State) (v : Bool) : Prop :=
  (s.zmode = true → s.zidx.toNat < bitLength s →
    ∃ c, codeword s (s.zidx.toNat / 8) = some c ∧ v = c.toNat.testBit (7 - s.zidx.toNat % 8)) ∧
  (s.zmode = false ∨ bitLength s ≤ s.zidx.toNat → v = false)

/-- A traversal under way has a value for its position: in place mode the remainder is valid (10_state R24 items 3 and 5). -/
theorem Inv.exists_placeValue (h : Inv s) (hlive : s.zst ≠ .idle) : ∃ v, placeValue s = some v ∧ IsPlaceValue s v := by
  by_cases hplace : s.zmode = true ∧ s.zidx.toNat < bitLength s
  · obtain ⟨hm, hlt⟩ := hplace
    have hj : s.zidx.toNat / 8 < s.k.toNat + s.n.toNat := by
      simp only [bitLength] at hlt; omega
    obtain ⟨c, hc⟩ := h.exists_codeword (h.place hlive hm).1 hj
    refine ⟨_, placeValue_of_codeword hm hlt hc, fun _ _ => ⟨c, hc, rfl⟩, ?_⟩
    rintro (hm' | hle)
    · exact absurd (hm.symm.trans hm') nofun
    · exact absurd hlt (Nat.not_lt.mpr hle)
  · have hpad : s.zmode = false ∨ bitLength s ≤ s.zidx.toNat := by
      rcases not_and_or.mp hplace with hm | hlt
      · exact .inl (by simpa using hm)
      · exact .inr (Nat.not_lt.mp hlt)
    exact ⟨false, placeValue_of_padding hpad, fun hm hlt => absurd ⟨hm, hlt⟩ hplace, fun _ => rfl⟩

/-! ## ZZ.START and ZZ.NEXT -/

/-- ZZ.START without a version raises whatever the mode, so its count matters with a version only (42_zigzag R204). -/
theorem execZzStart_eq (b : Byte) (s : State) :
    execZzStart b s =
      if 1 < b.toNat then raise .range s
      else if s.ver = 0#6 then raise .zzState s
      else if b = 1#8 ∧ s.remv = false then raise .zzState s
      else if b = 1#8 ∧ zzcount (sideOfVersion s.ver.toNat) (isFixed s) < bitLength s then raise .zzOverflow s
      else respond (BitVec.ofNat 32 (zzcount (sideOfVersion s.ver.toNat) (isFixed s)))
        { s with zmode := decide (b = 1#8), zst := .run, zp := 0#8, zt := 0#8, zh := false, zidx := 0#16 } := by
  by_cases hv : s.ver = 0#6
  · simp only [execZzStart, hv, if_true]
  · rw [sideOfVersion_ver hv]
    rfl

theorem execZzNext_of_idle (hz : s.zst = .idle) : execZzNext s = raise .zzState s := by
  simp [execZzNext, hz]

theorem execZzNext_of_done (hz : s.zst = .done) : execZzNext s = respond doneWord s := by
  simp [execZzNext, hz]

theorem execZzNext_of_atEnd {c : Cursor} (hz : s.zst = .run)
    (hc : scan (sideOf s) (isFixed s) (scanFuel (sideOf s)) (cursorOf s) = .atEnd c) :
    execZzNext s = respond doneWord { setCursor c s with zst := .done } := by
  simp [execZzNext, hz, hc]

theorem execZzNext_of_found {p : Nat × Nat} {c : Cursor} {v : Bool} (hz : s.zst = .run)
    (hc : scan (sideOf s) (isFixed s) (scanFuel (sideOf s)) (cursorOf s) = .found p c) (hv : placeValue s = some v) :
    execZzNext s = respond (positionWord v p.1 p.2) { setCursor c s with zidx := s.zidx + 1#16 } := by
  simp [execZzNext, hz, hc, hv]

/-- The result word of a position as a number (42_zigzag R206). -/
theorem toNat_positionWord (v : Bool) {r c : Nat} (hr : r < 256) (hc : c < 256) :
    (positionWord v r c).toNat = 65536 * v.toNat + 256 * r + c := by
  simp only [positionWord, toNat_append_eq_add, BitVec.toNat_ofNat, Nat.mod_eq_of_lt hr, Nat.mod_eq_of_lt hc,
    BitVec.toNat_ofBool]
  omega

section Next

variable (h : Inv s) (hz : s.zst = .run)

include h hz

/-- A traversal under way has a version. -/
theorem Inv.ver_ne_zero : s.ver ≠ 0#6 := h.live (by rw [hz]; nofun)

/-- A byte holds every pair of the side (00_scope R8, R9). -/
theorem Inv.pairCount_lt : pairCount (sideOf s) < 256 := by
  obtain ⟨-, -, hmax, hmax'⟩ := h.side (h.ver_ne_zero hz)
  unfold pairCount
  omega

/-- ZIDX is wide enough to count one position more (42_zigzag R201). -/
theorem Inv.toNat_zidx_succ {p : Nat × Nat} (hp : (zzseq (sideOf s) (isFixed s))[s.zidx.toNat]? = some p) :
    (s.zidx + 1#16).toNat = s.zidx.toNat + 1 := by
  obtain ⟨hodd, -, hmax, hmax'⟩ := h.side (h.ver_ne_zero hz)
  have hidx : s.zidx.toNat < (zzseq (sideOf s) (isFixed s)).length := (List.getElem?_eq_some_iff.mp hp).1
  have hlen := length_zzseq_lt hodd (hmax.trans hmax') (isFixed s)
  rw [BitVec.toNat_add, BitVec.toNat_one (by decide)]
  omega

/-- ZIDX counts the positions emitted, so the scan finds the position at place ZIDX (42_zigzag R198, R205). -/
theorem Inv.scan_of_position {p : Nat × Nat} (hp : (zzseq (sideOf s) (isFixed s))[s.zidx.toNat]? = some p) :
    ∃ c, scan (sideOf s) (isFixed s) (scanFuel (sideOf s)) (cursorOf s) = .found p c ∧
      ∃ e, e.onGrid (sideOf s) ∧ cellAt (sideOf s) e = p ∧ e.advance (sideOf s) = c := by
  obtain ⟨hodd, -, -, -⟩ := h.side (h.ver_ne_zero hz)
  obtain ⟨hpair, hstep, hidx⟩ := h.running hz
  cases hscan : scan (sideOf s) (isFixed s) (scanFuel (sideOf s)) (cursorOf s) with
  | found q c =>
    obtain ⟨hq, he⟩ := scan_found_position hstep hscan
    obtain rfl : p = q := Option.some.inj (hp.symm.trans (hidx ▸ hq))
    exact ⟨c, rfl, he⟩
  | atEnd c =>
    obtain ⟨hend, hstep', hw⟩ := scan_atEnd hstep hscan
    rw [hidx, ← hw, writableBefore_end _ hend hstep'] at hp
    simp at hp
  | offGrid => exact absurd hscan (scan_ne_offGrid hodd hpair hstep)

/-- With the sequence exhausted the scan comes to the end (42_zigzag R205). -/
theorem Inv.scan_of_exhausted (hp : (zzseq (sideOf s) (isFixed s))[s.zidx.toNat]? = none) :
    ∃ c, scan (sideOf s) (isFixed s) (scanFuel (sideOf s)) (cursorOf s) = .atEnd c := by
  obtain ⟨hodd, -, -, -⟩ := h.side (h.ver_ne_zero hz)
  obtain ⟨hpair, hstep, hidx⟩ := h.running hz
  cases hscan : scan (sideOf s) (isFixed s) (scanFuel (sideOf s)) (cursorOf s) with
  | found q c =>
    have hq := (scan_found_position hstep hscan).1
    rw [← hidx, hp] at hq
    cases hq
  | atEnd c => exact ⟨c, rfl⟩
  | offGrid => exact absurd hscan (scan_ne_offGrid hodd hpair hstep)

end Next

end Sys2Proof.Machine

namespace Sys2Proof.Proofs

open Sys2Proof.Machine Sys2Proof.Spec

/-- Settles O47: the version fits its 6 bits, and the plane is cleared inside the new side. -/
theorem zzSetverResult : Obligations.ZzSetverResult := by
  unfold Obligations.ZzSetverResult
  refine fun b s => ⟨⟨rfl, rfl⟩, execZzSetver_of_range, fun h0 hb hvalid =>
    ⟨_, _, execZzSetver_of_legal h0 hb, ?_, fun r c hc => read_clearPlane _ _ hc⟩⟩
  have hmax : s.cfg.vMax ≤ 59 := hvalid.2.2.2
  rw [BitVec.toNat_setWidth, Nat.mod_eq_of_lt (by omega)]

/-- Settles O48: one cell written, the checks of the version and of the side before it. -/
theorem zzFixResult : Obligations.ZzFixResult := by
  unfold Obligations.ZzFixResult
  refine fun a b s => ⟨⟨rfl, rfl⟩, fun hv => execZzFix_of_unset hv a b, fun hv h => ?_, fun hv ha hb hwf => ?_⟩
  · rw [sideOfVersion_ver hv] at h
    exact execZzFix_of_range hv h
  · rw [sideOfVersion_ver hv] at ha hb
    exact ⟨_, execZzFix_of_cell hv ha hb, fun r c hc => read_fixCell b.isLt hc hwf⟩

/-- Settles O49: the checks of the operation in their order, and what it sets. -/
theorem zzStartResult : Obligations.ZzStartResult := by
  unfold Obligations.ZzStartResult
  rintro b s _ rfl
  exact ⟨⟨rfl, rfl⟩, execZzStart_eq b s⟩

/-- Settles O50: the scan from the cursor stops at position ZIDX of the sequence, or at the end when there is none. -/
theorem zzNextFollowsSequence : Obligations.ZzNextFollowsSequence := by
  unfold Obligations.ZzNextFollowsSequence
  refine fun s h => ⟨⟨rfl, rfl⟩, execZzNext_of_idle, execZzNext_of_done, fun hz p hp => ?_, fun hz hp => ?_⟩
  · have hv := h.ver_ne_zero hz
    obtain ⟨hodd, hside, hmax, hmax'⟩ := h.side hv
    rw [sideOfVersion_ver hv] at hp ⊢
    obtain ⟨c, hscan, e, he, hcell, hadv⟩ := h.scan_of_position hz hp
    obtain ⟨v, hvalue, hplace⟩ := h.exists_placeValue (by rw [hz]; nofun)
    obtain ⟨hpair, hstep, -⟩ := scan_found (h.running hz).2.1 hscan
    obtain ⟨hrow, hcol, -, -⟩ := (mem_zzseq hodd (by omega)).mp (List.mem_of_getElem? hp)
    have hcursor : cursorOf (setCursor c s) = c :=
      cursorOf_setCursor (hpair.trans_lt (h.pairCount_lt hz)) (by omega)
    exact ⟨_, v, _, _, _, _, execZzNext_of_found hz hscan hvalue,
      ⟨e, mem_probes.mpr he, hcell, hadv.trans hcursor.symm⟩, h.toNat_zidx_succ hz hp,
      toNat_positionWord v (by omega) (by omega), hplace⟩
  · rw [sideOfVersion_ver (h.ver_ne_zero hz)] at hp ⊢
    obtain ⟨c, hscan⟩ := h.scan_of_exhausted hz hp
    obtain ⟨hend, hstay, hmove⟩ := scan_atEnd_cursor hscan
    have hzp : (BitVec.ofNat 8 c.pair).toNat = pairCount (sideOf s) := by
      rw [hend, BitVec.toNat_ofNat, Nat.mod_eq_of_lt (h.pairCount_lt hz)]
    refine ⟨_, _, _, execZzNext_of_atEnd hz hscan, hzp, fun heq => ?_, fun hne => ?_⟩
    · rw [hstay (heq.trans hzp)]
      exact ⟨BitVec.ofNat_toNat .., rfl⟩
    · rw [hmove fun he => hne (he.trans hzp.symm)]
      exact ⟨rfl, rfl⟩

/-- Settles O51: the check of the version, and what is counted or read. -/
theorem zzCountAndRdfixResults : Obligations.ZzCountAndRdfixResults := by
  unfold Obligations.ZzCountAndRdfixResults
  refine fun a b s => ⟨⟨rfl, rfl⟩, ⟨rfl, rfl⟩,
    fun hv => ⟨execZzCount_of_unset hv, execZzRdfix_of_unset hv a b⟩, fun hv => ?_⟩
  rw [sideOfVersion_ver hv]
  exact ⟨execZzCount_of_set hv, execZzRdfix_of_set hv a b⟩

end Sys2Proof.Proofs
end

section
/-!
PROOFS. What disturbs a traversal and what does not (42_zigzag R216): exactly the listed operations abort it and leave the cursor
where it stood, while RS.GEN and RS.ENC write the values already there.
-/

namespace Sys2Proof.Machine

open Sys2Proof.Spec

variable {s t u : State} {i : Instr}

/-! ## Aborting -/

theorem err_raiseState_ne_zero (e : ErrorCode) (s : State) : (raiseState e s).err ≠ 0#4 := e.code_ne_zero

/-- An operation that aborts traversals leaves ZST idle when it succeeds (42_zigzag R216). -/
theorem zst_of_aborts (ht : exec i s = .next t) (hok : t.err = 0#4) (ha : Aborts s.zmode i) : t.zst = .idle := by
  cases i with
  | sysReset => obtain rfl := execSysReset_cases ht; rfl
  | rsClr =>
    have hm : s.zmode = true := ha
    obtain rfl := execRsClr_cases ht
    simp [hm]
  | rsSetn b =>
    have hm : s.zmode = true := ha
    obtain ⟨_, rfl⟩ | ⟨_, _, rfl⟩ := execRsSetn_cases ht
    · exact absurd hok (err_raiseState_ne_zero _ _)
    · simp [hm]
  | rsPush b =>
    have hm : s.zmode = true := ha
    obtain ⟨_, rfl⟩ | ⟨_, rfl⟩ := execRsPush_cases ht
    · exact absurd hok (err_raiseState_ne_zero _ _)
    · simp [hm]
  | zzSetver b =>
    obtain ⟨_, rfl⟩ | ⟨_, _, rfl⟩ := execZzSetver_cases ht
    · exact absurd hok (err_raiseState_ne_zero _ _)
    · rfl
  | zzFix a b =>
    obtain ⟨_, rfl⟩ | ⟨_, _, rfl⟩ | ⟨_, _, _, rfl⟩ := execZzFix_cases ht
    · exact absurd hok (err_raiseState_ne_zero _ _)
    · exact absurd hok (err_raiseState_ne_zero _ _)
    · rfl
  | _ => exact ha.elim

/-- An update that ends a traversal is one of an operation that aborts it. -/
theorem Update.aborts (hu : Update s i u) (hlive : s.zst ≠ .idle) (hidle : u.zst = .idle) : Aborts s.zmode i := by
  cases hu with
  | none | gen | enc => exact absurd hidle hlive
  | reset | setver | fix => trivial
  | setn | clr | push =>
    by_contra hm
    have hm : s.zmode = false := by simpa [Aborts] using hm
    exact hlive (by simpa [hm] using hidle)
  | start | exhaust => cases hidle
  | emit => exact absurd hidle hlive

/-- An update that ends a traversal keeps the cursor and ZIDX, but for ZZ.SETVER and the reset (42_zigzag R216). -/
theorem Update.cursor_eq (hu : Update s i u) (hidle : u.zst = .idle) (hreset : i ≠ .sysReset)
    (hsetver : ∀ b, i ≠ .zzSetver b) (hlive : s.zst ≠ .idle) :
    u.zp = s.zp ∧ u.zt = s.zt ∧ u.zh = s.zh ∧ u.zidx = s.zidx := by
  cases hu with
  | none | gen | enc | fix => exact ⟨rfl, rfl, rfl, rfl⟩
  | reset => exact absurd rfl hreset
  | setver => exact absurd rfl (hsetver _)
  | setn | clr | push => simp
  | start | exhaust => cases hidle
  | emit => exact absurd hidle hlive

/-! ## Recomputing -/

/-- Writing the values a bulk read answers changes no cell. -/
theorem read_writeCells_of_readCells {m : Memory 8} {a : Nat} {vs : List Byte} (hwf : Memory.wf unlistedByte m = true)
    (h : readCells m a vs.length = some vs) (i : Nat) :
    Memory.read unlistedByte (writeCells m a vs) i = Memory.read unlistedByte m i := by
  rw [read_writeCells vs i hwf]
  split
  · next hi =>
    rw [← (readCells_eq_some.mp h).2 (i - a) (by omega), Nat.add_sub_cancel' hi.1]
  · rfl

section Recompute

variable (h : Inv s) (hr : s.remv = true)

include h hr

/-- With a remainder RS.GEN finds N set and the generator in place (10_state R24 items 2 and 3). -/
theorem Inv.execRsGen_again : ∃ g, execRsGen s = ack { s with gen := g } ∧
    ∀ i, Memory.read unlistedByte g i = Memory.read unlistedByte s.gen i := by
  have hg : s.genv = true := (h.remainder hr).1
  obtain ⟨hn, hgen⟩ := h.generator hg
  have hset : s.n ≠ 0#8 := fun h0 => by simp [h0] at hn
  refine ⟨writeCells s.gen 0 (genpoly s.n.toNat), ?_, read_writeCells_of_readCells h.gen_wf ?_⟩
  · rw [execRsGen_of_set hset, ← hg]
  · rwa [length_genpoly]

/-- With a remainder RS.ENC finds the generator, the data and their remainder in place (10_state R24 items 2 and 3). -/
theorem Inv.execRsEnc_again : ∃ r, execRsEnc s = ack { s with rem := r } ∧
    ∀ i, Memory.read unlistedByte r i = Memory.read unlistedByte s.rem i := by
  obtain ⟨hg, hk, data, hdata, hrem⟩ := h.remainder hr
  have hset : s.k ≠ 0#8 := fun h0 => by simp [h0] at hk
  refine ⟨writeCells s.rem 0 (rsrem data s.n.toNat), ?_, read_writeCells_of_readCells h.rem_wf ?_⟩
  · rw [execRsEnc_of_ready hg hset hdata (h.generator hg).2, ← hr]
  · rwa [length_rsrem]

end Recompute

end Sys2Proof.Machine

namespace Sys2Proof.Proofs

open Sys2Proof.Machine Sys2Proof.Spec

/-- Settles O52: what each update does to ZST and the cursor. -/
theorem abortReturnsToIdle : Obligations.AbortReturnsToIdle := by
  unfold Obligations.AbortReturnsToIdle
  intro i s t _ ht hok hlive
  obtain ⟨u, e, v, p, hu, rfl⟩ := (exec_ends ht).exists_update
  exact ⟨⟨hu.aborts hlive, zst_of_aborts ht hok⟩, fun hidle hr hv => hu.cursor_eq hidle hr hv hlive, execZzNext_of_idle⟩

/-- Settles O46: GEN[0..N] is genpoly(N) and REM[0..N-1] is the remainder already (10_state R24 items 2 and 3). -/
theorem recomputingChangesNothing : Obligations.RecomputingChangesNothing := by
  unfold Obligations.RecomputingChangesNothing
  exact fun s h hr => ⟨h.execRsGen_again hr, h.execRsEnc_again hr⟩

end Sys2Proof.Proofs
end

section
/-!
PROOFS. The format word (43_format_bch R230 to R241). The loop of R233 XORs multiples of G15 until its value is below 1024, and 0 is
the only multiple below 1024: so the remainder is unique, hence linear, and the distance of two words is the weight of a multiple.
-/

namespace Sys2Proof.Machine

open Sys2Proof.Spec

/-! ## Multiples of G15 -/

theorem clmul_xor (a b c : Nat) : clmul a (b ^^^ c) = clmul a b ^^^ clmul a c := by
  refine List.foldl_hom₂ _ (· ^^^ ·) _ _ _ 0 0 fun u v i => ?_
  rw [Nat.testBit_xor]
  cases b.testBit i <;> cases c.testBit i
  · rfl
  · exact (Nat.xor_assoc u v _).symm
  · exact Nat.xor_right_comm u _ v
  · simp [Nat.xor_left_comm, Nat.xor_comm]

theorem clmul_g15_two_pow : ∀ i < 5, clmul g15 (2 ^ i) = g15 <<< i := by
  decide

/-- The polynomials of degree below 15 that G15 divides. -/
def IsG15Multiple (w : Nat) : Prop := ∃ q, q < 32 ∧ clmul g15 q = w

theorem isG15Multiple_zero : IsG15Multiple 0 := ⟨0, by decide, rfl⟩

theorem isG15Multiple_shiftLeft {i : Nat} (hi : i < 5) : IsG15Multiple (g15 <<< i) :=
  ⟨2 ^ i, Nat.pow_lt_pow_right (by decide) hi, clmul_g15_two_pow i hi⟩

theorem IsG15Multiple.xor {v w : Nat} : IsG15Multiple v → IsG15Multiple w → IsG15Multiple (v ^^^ w) := by
  rintro ⟨q, hq, rfl⟩ ⟨r, hr, rfl⟩
  exact ⟨q ^^^ r, Nat.xor_lt_two_pow (n := 5) hq hr, clmul_xor g15 q r⟩

/-- G15 has degree 10, so a multiple of degree below 10 is 0. -/
theorem IsG15Multiple.eq_zero_of_lt {w : Nat} (hw : IsG15Multiple w) (hlt : w < 1024) : w = 0 := by
  have hfinite : ∀ q < 32, clmul g15 q < 1024 → clmul g15 q = 0 := by decide +kernel
  obtain ⟨q, hq, rfl⟩ := hw
  exact hfinite q hq hlt

/-- The code's minimum weight is 7 (R234). -/
theorem IsG15Multiple.le_weight {w : Nat} (hw : IsG15Multiple w) (hne : w ≠ 0) : 7 ≤ weight15 w := by
  have hfinite : ∀ q < 32, clmul g15 q ≠ 0 → 7 ≤ weight15 (clmul g15 q) := by decide +kernel
  obtain ⟨q, hq, rfl⟩ := hw
  exact hfinite q hq hne

/-! ## The loop of the remainder -/

theorem bitlen_le_iff {v n : Nat} : bitlen v ≤ n ↔ v < 2 ^ n := by
  unfold bitlen
  split
  · next h => simp [h]
  · next h => rw [← Nat.log2_lt h, Nat.add_comm, Nat.succ_le_iff]

/-- XOR cancels a common top bit. -/
theorem xor_lt_of_top_bit {u v k : Nat} (hu : 2 ^ k ≤ u ∧ u < 2 ^ (k + 1)) (hv : 2 ^ k ≤ v ∧ v < 2 ^ (k + 1)) :
    u ^^^ v < 2 ^ k := by
  have htop {w : Nat} (hw : 2 ^ k ≤ w ∧ w < 2 ^ (k + 1)) : w / 2 ^ k = 1 :=
    Nat.div_eq_of_lt_le (by simpa using hw.1) (by simpa [Nat.pow_succ'] using hw.2)
  have hdiv : (u ^^^ v) / 2 ^ k = 0 := by rw [Nat.xor_div_two_pow, htop hu, htop hv, Nat.xor_self]
  exact (Nat.div_eq_zero_iff.mp hdiv).resolve_left (Nat.two_pow_pos k).ne'

/-- A round of R233 clears the top bit. -/
theorem bitlen_round {r : Nat} (h : 10 < bitlen r) : bitlen (r ^^^ (g15 <<< (bitlen r - 11))) < bitlen r := by
  obtain ⟨i, hi⟩ := Nat.exists_eq_add_of_lt h
  have hlow : 2 ^ (i + 10) ≤ r := Nat.not_lt.mp (mt bitlen_le_iff.mpr (by omega))
  have hhigh : r < 2 ^ (i + 10 + 1) := bitlen_le_iff.mp (by omega)
  have hlt : r ^^^ (g15 <<< i) < 2 ^ (i + 10) := by
    refine xor_lt_of_top_bit ⟨hlow, hhigh⟩ ?_
    rw [g15, Nat.shiftLeft_eq, Nat.pow_add 2 i 10, show 2 ^ (i + 10 + 1) = 2 ^ i * 2 ^ 11 from Nat.pow_add 2 i 11]
    have hpos := Nat.two_pow_pos i
    omega
  rw [show bitlen r - 11 = i by omega]
  exact (bitlen_le_iff.mpr hlt).trans_lt (by omega)

/-- A value below 1024 is its own remainder. -/
theorem remainder_of_short {r : Nat} (h : bitlen r ≤ 10) : r < 1024 ∧ IsG15Multiple (r ^^^ r) :=
  ⟨bitlen_le_iff.mp h, by rw [Nat.xor_self]; exact isG15Multiple_zero⟩

/-- With rounds enough the loop ends below 1024, and it only XORs multiples of G15. -/
theorem bchLoop_spec {fuel r : Nat} (hfuel : bitlen r ≤ fuel) (hr : bitlen r ≤ 15) :
    bchLoop fuel r < 1024 ∧ IsG15Multiple (r ^^^ bchLoop fuel r) := by
  induction fuel generalizing r with
  | zero => exact remainder_of_short (hfuel.trans (by decide))
  | succ fuel ih =>
    unfold bchLoop
    split
    · next hlong =>
      have hround := bitlen_round hlong
      obtain ⟨hlt, hmul⟩ := ih (r := r ^^^ (g15 <<< (bitlen r - 11))) (by omega) (by omega)
      have hstep := (isG15Multiple_shiftLeft (i := bitlen r - 11) (by omega)).xor hmul
      rw [Nat.xor_assoc, Nat.xor_left_comm, Nat.xor_xor_cancel_left] at hstep
      exact ⟨hlt, hstep⟩
    · next hshort => exact remainder_of_short (by omega)

/-! ## The remainder -/

theorem bchrem_spec {p : Nat} (hp : p < 32) : bchrem p < 1024 ∧ IsG15Multiple ((p <<< 10) ^^^ bchrem p) := by
  refine bchLoop_spec le_rfl (bitlen_le_iff.mpr ?_)
  rw [Nat.shiftLeft_eq]
  omega

theorem bchrem_lt {p : Nat} (hp : p < 32) : bchrem p < 1024 := (bchrem_spec hp).1

/-- A payload followed by ten bits. -/
theorem shiftLeft_or_eq_xor {r : Nat} (hr : r < 1024) (p : Nat) : (p <<< 10) ||| r = (p <<< 10) ^^^ r := by
  refine Nat.eq_of_testBit_eq fun i => ?_
  rw [Nat.testBit_or, Nat.testBit_xor, Nat.testBit_shiftLeft]
  obtain hi | hi := Nat.lt_or_ge i 10
  · simp [hi.not_ge]
  · simp [Nat.testBit_lt_two_pow (hr.trans_le (Nat.pow_le_pow_right (n := 2) (by decide) hi))]

/-- A payload followed by its remainder is a multiple of G15 (R234). -/
theorem isG15Multiple_bchWord {p : Nat} (hp : p < 32) : IsG15Multiple ((p <<< 10) ||| bchrem p) := by
  rw [shiftLeft_or_eq_xor (bchrem_lt hp)]
  exact (bchrem_spec hp).2

/-- The difference of the two sides is a multiple of G15 below 1024. -/
theorem bchrem_xor {p q : Nat} (hp : p < 32) (hq : q < 32) : bchrem (p ^^^ q) = bchrem p ^^^ bchrem q := by
  obtain ⟨hltp, hmulp⟩ := bchrem_spec hp
  obtain ⟨hltq, hmulq⟩ := bchrem_spec hq
  obtain ⟨hlt, hmul⟩ := bchrem_spec (Nat.xor_lt_two_pow (n := 5) hp hq)
  have hdiff : IsG15Multiple (bchrem (p ^^^ q) ^^^ (bchrem p ^^^ bchrem q)) := by
    have hsum := hmul.xor (hmulp.xor hmulq)
    rw [Nat.shiftLeft_xor_distrib] at hsum
    convert hsum using 1
    calc bchrem (p ^^^ q) ^^^ (bchrem p ^^^ bchrem q)
        = ((p <<< 10) ^^^ (p <<< 10)) ^^^ ((q <<< 10) ^^^ (q <<< 10)) ^^^ (bchrem (p ^^^ q) ^^^ (bchrem p ^^^ bchrem q)) := by
          simp
      _ = _ := by ac_rfl
  exact Nat.xor_eq_zero_iff.mp (hdiff.eq_zero_of_lt
    (Nat.xor_lt_two_pow (n := 10) hlt (Nat.xor_lt_two_pow hltp hltq)))

/-- Different payloads stand in the top bits, so their words are different multiples of G15. -/
theorem le_weight_bchWord_xor {p q : Nat} (hp : p < 32) (hq : q < 32) (hne : p ≠ q) :
    7 ≤ weight15 (((p <<< 10) ||| bchrem p) ^^^ ((q <<< 10) ||| bchrem q)) := by
  refine ((isG15Multiple_bchWord hp).xor (isG15Multiple_bchWord hq)).le_weight fun h0 => hne ?_
  have hltp := bchrem_lt hp
  have hltq := bchrem_lt hq
  have heq := Nat.xor_eq_zero_iff.mp h0
  rw [← Nat.shiftLeft_add_eq_or_of_lt hltp, ← Nat.shiftLeft_add_eq_or_of_lt hltq, Nat.shiftLeft_eq, Nat.shiftLeft_eq] at heq
  omega

/-! ## Levels and payloads -/

/-- R231: the codes by selector. -/
theorem levelCode_levelOf (a : Nat) : (levelOf a).map levelCode = [0b01, 0b00, 0b11, 0b10][a]? := by
  match a with
  | 0 | 1 | 2 | 3 | _ + 4 => rfl

theorem levelOf_eq_none_iff {a : Nat} : levelOf a = none ↔ 3 < a := by
  rw [← Option.map_eq_none_iff, levelCode_levelOf, List.getElem?_eq_none_iff]
  rfl

theorem payload_eq {m : Nat} (hm : m ≤ 7) (l : Level) : payload l m = 8 * levelCode l + m := by
  rw [payload, ← Nat.shiftLeft_add_eq_or_of_lt (by omega), Nat.shiftLeft_eq, Nat.mul_comm]

/-! ## The operations -/

theorem execFmtEnc_of_noLevel {a : Byte} (ha : 3 < a.toNat) (b : Byte) (s : State) :
    execFmtEnc a b s = raise .eccLevel s := by
  simp [execFmtEnc, levelOf_eq_none_iff.mpr ha]

theorem execFmtEnc_of_range {a b : Byte} (ha : a.toNat ≤ 3) (hb : 7 < b.toNat) (s : State) :
    execFmtEnc a b s = raise .range s := by
  obtain ⟨l, hl⟩ := Option.ne_none_iff_exists'.mp (mt levelOf_eq_none_iff.mp ha.not_gt)
  simp [execFmtEnc, hl, hb]

theorem execFmtEnc_of_legal {a b : Byte} {l : Level} (hl : levelOf a.toNat = some l) (hb : b.toNat ≤ 7) (s : State) :
    execFmtEnc a b s = respond (BitVec.ofNat 32 (fmtword (8 * levelCode l + b.toNat))) s := by
  simp [execFmtEnc, hl, Nat.not_lt.mpr hb, payload_eq hb]

theorem execFmtBch_of_range {b : Byte} (hb : 31 < b.toNat) (s : State) : execFmtBch b s = raise .range s := if_pos hb

theorem execFmtBch_of_legal {b : Byte} (hb : b.toNat ≤ 31) (s : State) :
    execFmtBch b s = respond (BitVec.ofNat 32 (bchrem b.toNat)) s := if_neg (Nat.not_lt.mpr hb)

end Sys2Proof.Machine

namespace Sys2Proof.Proofs

open Sys2Proof.Machine Sys2Proof.Spec

/-- Settles O57: the selector names a level exactly up to 3, and a mask of three bits stands below its code. -/
theorem fmtEncResult : Obligations.FmtEncResult := by
  unfold Obligations.FmtEncResult
  refine fun a b s => ⟨⟨rfl, rfl⟩, fun ha => execFmtEnc_of_noLevel ha b s, fun ha hb => execFmtEnc_of_range ha hb s,
    fun code hcode hb => ?_⟩
  rw [← levelCode_levelOf, Option.map_eq_some_iff] at hcode
  obtain ⟨l, hl, rfl⟩ := hcode
  exact execFmtEnc_of_legal hl hb s

/-- Settles O58: the remainder is unique, and the least weight of a nonzero multiple of G15 is 7. -/
theorem fmtBchResult : Obligations.FmtBchResult := by
  unfold Obligations.FmtBchResult
  exact ⟨fun b s => ⟨⟨rfl, rfl⟩, fun hb => execFmtBch_of_range hb s, fun hb => execFmtBch_of_legal hb s⟩,
    by decide +kernel, by decide +kernel, by decide +kernel, fun p hp => ⟨bchrem_lt hp, isG15Multiple_bchWord hp⟩,
    fun p hp q hq => bchrem_xor hp hq, fun p hp q hq => le_weight_bchWord_xor hp hq⟩

/-- Settles O59: a table of closed values, computed. -/
theorem formatWordTable : Obligations.FormatWordTable := by
  unfold Obligations.FormatWordTable
  exact ⟨by decide, by decide +kernel, by decide +kernel⟩

end Sys2Proof.Proofs
end

section
/-!
PROOFS. The system operations and the command port (44_system R250 to R255): what becomes of a command word, the reset state and its
unreadable cells, and the registers of SYS.RDREG as numbers.
-/

namespace Sys2Proof.Machine

open Sys2Proof.Spec

variable {s : State}

/-! ## A command word -/

/-- A legal word runs its operation, in the error state SYS.RESET only (R255). -/
theorem transact_legal {cmd : Word} {i : Instr} (h : decode cmd = .instr i) (hs : s.err = 0#4 ∨ i = .sysReset) :
    transact cmd s = exec i s := by
  rw [transact, h]
  exact if_neg fun ⟨he, hi⟩ => hs.elim he hi

/-- Every other command in the error state is ignored (60_exceptions R273). -/
theorem transact_ignored {cmd : Word} (h : decode cmd ≠ .instr .sysReset) (he : s.err ≠ 0#4) :
    transact cmd s = .next (ignoredState s) := by
  cases hd : decode cmd with
  | instr i =>
    have hi : i ≠ .sysReset := fun hi => h (hi ▸ hd)
    rw [transact, hd]
    exact if_pos ⟨he, hi⟩
  | illegal why => rw [transact_illegal hd, if_neg he]

/-! ## Reset -/

theorem step_rst {ms : List HostMove} (h : s.moves = .rst :: ms) : step s = .next (resetState { s with moves := ms }) := by
  simp [step, serve, h]

/-- With K = 0, GENV = REMV = 0 and VER = 0 the checks of every read fail (10_state R50), whatever response is presented. -/
theorem isReset_resetState_withRsp (s : State) (p : Option Response) : IsReset s { resetState s with rsp := p } :=
  ⟨rfl, rfl, rfl, rfl, rfl, rfl, rfl, rfl, rfl, rfl, rfl, rfl, rfl, rfl, fun _ => execRsRddat_of_range (Nat.zero_le _),
    execRsRdgen_of_invalid rfl, execRsRdrem_of_invalid rfl, execZzRdfix_of_unset rfl⟩

/-! ## The registers as numbers -/

theorem Zst.toNat_bits (z : Zst) : z.bits.toNat = zstNumber z := by
  cases z <;> rfl

theorem toNat_vset (s : State) : (vset s).toNat = if s.ver = 0#6 then 0 else 1 := by
  by_cases hv : s.ver = 0#6 <;> simp [vset, hv]

theorem toNat_statusWord (s : State) : (statusWord s).toNat = regNumber s 1 := by
  simp only [statusWord, regNumber, toNat_append_eq_add, Zst.toNat_bits, BitVec.toNat_ofBool, toNat_vset,
    BitVec.toNat_ofNat]
  omega

theorem toNat_ofNat_sideOf (s : State) : (BitVec.ofNat 32 (sideOf s)).toNat = regNumber s 5 := by
  by_cases hv : s.ver = 0#6
  · simp [regNumber, sideOf, size, hv]
  · have hlt := s.ver.isLt
    rw [regNumber, if_neg hv, sideOf_eq hv, BitVec.toNat_ofNat, Nat.mod_eq_of_lt (by omega)]

theorem toNat_zcurWord (s : State) : (zcurWord s).toNat = regNumber s 7 := by
  simp only [zcurWord, regNumber, toNat_append_eq_add, BitVec.toNat_ofBool, BitVec.toNat_ofNat]
  omega

/-- A byte holds each parameter (00_scope R8). -/
theorem toNat_capWord {c : Config} (h : c.Valid) : (capWord c).toNat = 65536 * c.vMax + 256 * c.nMax + c.kMax := by
  obtain ⟨⟨-, hk⟩, ⟨-, hn⟩, -, hv⟩ := h
  simp only [capWord, toNat_append_eq_add, BitVec.toNat_ofNat]
  omega

/-- The registers 0 to 9 hold the numbers their rules give (10_state R30 to R39). -/
theorem exists_regs {b : Byte} (h : s.cfg.Valid) (hb : b.toNat ≤ 9) :
    ∃ v, regs s b = some v ∧ v.toNat = regNumber s b.toNat := by
  unfold regs
  match b.toNat, hb with
  | 0, _ | 8, _ => exact ⟨_, rfl, rfl⟩
  | 2, _ | 3, _ | 4, _ | 6, _ => exact ⟨_, rfl, BitVec.toNat_setWidth_of_le (by decide)⟩
  | 1, _ => exact ⟨_, rfl, toNat_statusWord s⟩
  | 5, _ => exact ⟨_, rfl, toNat_ofNat_sideOf s⟩
  | 7, _ => exact ⟨_, rfl, toNat_zcurWord s⟩
  | 9, _ => exact ⟨_, rfl, toNat_capWord h⟩

theorem execSysRdreg_of_range {b : Byte} (hb : 9 < b.toNat) (s : State) : execSysRdreg b s = raise .range s := by
  have hnone : regs s b = none := Option.not_isSome_iff_eq_none.mp ((regs_isSome_iff b).not.mpr hb.not_ge)
  rw [execSysRdreg, hnone]

theorem execSysRdreg_of_register {b : Byte} {v : Word} (hv : regs s b = some v) : execSysRdreg b s = respond v s := by
  rw [execSysRdreg, hv]

end Sys2Proof.Machine

namespace Sys2Proof.Proofs

open Sys2Proof.Machine Sys2Proof.Spec

/-- Settles O21: each register is its rule's bit fields side by side, so its number is their weighted sum. -/
theorem sysRdregResult : Obligations.SysRdregResult := by
  unfold Obligations.SysRdregResult
  refine fun s b => ⟨⟨rfl, rfl⟩, fun hb => execSysRdreg_of_range hb s, fun hb hcfg => ?_⟩
  obtain ⟨v, hreg, hnum⟩ := exists_regs hcfg hb
  exact ⟨v, execSysRdreg_of_register hreg, hnum⟩

/-- Settles O7: the step is the transaction of the word, which is legal, illegal or ignored. -/
theorem stepRunsDecodedCommand : Obligations.StepRunsDecodedCommand := by
  unfold Obligations.StepRunsDecodedCommand
  intro s cmd ms hm
  rw [step_issue hm]
  exact ⟨fun i hi hs => transact_legal hi hs, fun why hw he => (transact_illegal hw _).trans (if_pos he),
    fun hr he => transact_ignored hr he⟩

/-- Settles O19: the word is a closed value, and the meaning is `respond()`. -/
theorem sysNopResult : Obligations.SysNopResult := by
  unfold Obligations.SysNopResult
  exact ⟨⟨rfl, rfl⟩, by decide, fun _ => rfl⟩

/-- Settles O20: both resets leave the reset state, one with the response (0, 0) and one with none. -/
theorem resetLeavesResetState : Obligations.ResetLeavesResetState := by
  unfold Obligations.ResetLeavesResetState
  refine ⟨⟨rfl, rfl⟩, by decide, isReset_resetState_withRsp _ none, fun s => ⟨?_, fun ms hm => ?_⟩⟩
  · exact ⟨ackState (resetState s), rfl, isReset_resetState_withRsp s _, rfl, rfl⟩
  · exact ⟨_, step_rst hm, isReset_resetState_withRsp { s with moves := ms } none, rfl, rfl⟩

end Sys2Proof.Proofs
end

section
/-!
PROOFS. Errors (60_exceptions R270 to R273): which codes an operation can leave in ERR and a state in which it takes each of them,
that taking one writes ERR alone, and that the error state is left by SYS.RESET and rst alone.
-/

namespace Sys2Proof.Machine

open Sys2Proof.Spec

variable {s t : State} {i : Instr}

/-! ## The error state -/

/-- SYS.RESET has one word (30_encoding R95). -/
theorem decode_eq_sysReset_iff {cmd : Word} : decode cmd = .instr .sysReset ↔ cmd = 0x01000000#32 := by
  have hword : encode .sysReset = 0x01000000#32 := by decide
  rw [decode_eq_instr_iff_encode, hword]
  exact eq_comm

theorem step_sysReset {ms : List HostMove} (h : s.moves = .issue 0x01000000#32 :: ms) :
    step s = .next (ackState (resetState { s with moves := ms })) := by
  rw [step_issue h, transact_legal (decode_eq_sysReset_iff.mpr rfl) (.inr rfl)]
  rfl

theorem step_ignored {cmd : Word} {ms : List HostMove} (he : s.err ≠ 0#4) (h : s.moves = .issue cmd :: ms)
    (hcmd : cmd ≠ 0x01000000#32) : step s = .next (ignoredState { s with moves := ms }) := by
  rw [step_issue h]
  exact transact_ignored (decode_eq_sysReset_iff.not.mpr hcmd) he

/-- In the error state a step keeps ERR, unless the host issues SYS.RESET or asserts rst (60_exceptions R273). -/
theorem step_err_eq_or_reset (he : s.err ≠ 0#4) (ht : step s = .next t) :
    t.err = s.err ∨ ∃ ms, s.moves = .issue 0x01000000#32 :: ms ∨ s.moves = .rst :: ms := by
  obtain ⟨_, rfl⟩ | ⟨ms, hm, _⟩ | ⟨cmd, ms, hm, _⟩ | ⟨ms, _, rfl⟩ := step_cases ht
  · exact .inl rfl
  · exact .inr ⟨ms, .inr hm⟩
  · by_cases hcmd : cmd = 0x01000000#32
    · exact .inr ⟨ms, .inl (hcmd ▸ hm)⟩
    · cases (step_ignored he hm hcmd).symm.trans ht
      exact .inl rfl
  · exact .inl rfl

/-! ## Raising -/

/-- An operation run with ERR = 0 leaves it 0 or raises. -/
theorem Ends.err_eq_zero_or_raised (h : Ends s i t) (hs : s.err = 0#4) : t.err = 0#4 ∨ ∃ e, t = raiseState e s := by
  cases h with
  | raised e => exact .inr ⟨e, rfl⟩
  | acked hu | responded _ hu => exact .inl (hu.err_eq_zero (.inl hs))

/-- The error code an operation leaves with ERR = 0 before it is 0 or one that the table of 60_exceptions R270 lists for it. -/
theorem exec_err_mem_raisable (hs : s.err = 0#4) (h : exec i s = .next t) : t.err = 0#4 ∨ t.err.toNat ∈ raisable i := by
  cases i with
  | sysNop => obtain rfl := execSysNop_cases h; exact .inl hs
  | sysReset => obtain rfl := execSysReset_cases h; exact .inl rfl
  | sysRdreg b =>
    obtain ⟨_, rfl⟩ | ⟨_, _, rfl⟩ := execSysRdreg_cases h
    · exact .inr (.head _)
    · exact .inl hs
  | gfAdd a b => obtain rfl := execGfAdd_cases h; exact .inl hs
  | gfMul a b => obtain rfl := execGfMul_cases h; exact .inl hs
  | gfExp w =>
    obtain ⟨_, rfl⟩ | ⟨_, rfl⟩ := execGfExp_cases h
    · exact .inr (.head _)
    · exact .inl hs
  | gfLog b =>
    obtain ⟨_, rfl⟩ | ⟨_, _, rfl⟩ := execGfLog_cases h
    · exact .inr (.head _)
    · exact .inl hs
  | gfPow a b => obtain rfl := execGfPow_cases h; exact .inl hs
  | rsSetn b =>
    obtain ⟨_, rfl⟩ | ⟨_, _, rfl⟩ := execRsSetn_cases h
    · exact .inr (.head _)
    · exact .inl ((dropRemainder_err _).trans hs)
  | rsGen =>
    obtain ⟨_, rfl⟩ | ⟨_, rfl⟩ := execRsGen_cases h
    · exact .inr (.head _)
    · exact .inl hs
  | rsClr => obtain rfl := execRsClr_cases h; exact .inl ((dropRemainder_err _).trans hs)
  | rsPush b =>
    obtain ⟨_, rfl⟩ | ⟨_, rfl⟩ := execRsPush_cases h
    · exact .inr (.head _)
    · exact .inl ((dropRemainder_err _).trans hs)
  | rsEnc =>
    obtain ⟨_, rfl⟩ | ⟨_, _, _, _, _, _, rfl⟩ := execRsEnc_cases h
    · exact .inr (.head _)
    · exact .inl hs
  | rsRdgen b =>
    obtain ⟨_, rfl⟩ | ⟨_, _, rfl⟩ | ⟨_, _, _, _, rfl⟩ := execRsRdgen_cases h
    · exact .inr (.head _)
    · exact .inr (.tail _ (.head _))
    · exact .inl hs
  | rsRdrem b =>
    obtain ⟨_, rfl⟩ | ⟨_, _, rfl⟩ | ⟨_, _, _, _, rfl⟩ := execRsRdrem_cases h
    · exact .inr (.head _)
    · exact .inr (.tail _ (.head _))
    · exact .inl hs
  | rsRddat b =>
    obtain ⟨_, rfl⟩ | ⟨_, _, _, rfl⟩ := execRsRddat_cases h
    · exact .inr (.head _)
    · exact .inl hs
  | rsRdbit w =>
    obtain ⟨_, rfl⟩ | ⟨_, _, rfl⟩ | ⟨_, _, _, _, rfl⟩ := execRsRdbit_cases h
    · exact .inr (.head _)
    · exact .inr (.tail _ (.head _))
    · exact .inl hs
  | zzSetver b =>
    obtain ⟨_, rfl⟩ | ⟨_, _, rfl⟩ := execZzSetver_cases h
    · exact .inr (.head _)
    · exact .inl hs
  | zzFix a b =>
    obtain ⟨_, rfl⟩ | ⟨_, _, rfl⟩ | ⟨_, _, _, rfl⟩ := execZzFix_cases h
    · exact .inr (.head _)
    · exact .inr (.tail _ (.head _))
    · exact .inl hs
  | zzStart b =>
    obtain ⟨_, rfl⟩ | ⟨_, _, rfl⟩ | ⟨_, _, _, _, rfl⟩ | ⟨_, _, _, rfl⟩ := execZzStart_cases h
    · exact .inr (.head _)
    · exact .inr (.tail _ (.head _))
    · exact .inr (.tail _ (.tail _ (.head _)))
    · exact .inl hs
  | zzNext =>
    obtain ⟨_, rfl⟩ | ⟨_, rfl⟩ | ⟨_, _, _, rfl⟩ | ⟨_, _, _, _, _, _, rfl⟩ := execZzNext_cases h
    · exact .inr (.head _)
    · exact .inl hs
    · exact .inl hs
    · exact .inl hs
  | zzCount =>
    obtain ⟨_, rfl⟩ | ⟨_, rfl⟩ := execZzCount_cases h
    · exact .inr (.head _)
    · exact .inl hs
  | zzRdfix a b =>
    obtain ⟨_, rfl⟩ | ⟨_, _, rfl⟩ | ⟨_, _, _, rfl⟩ := execZzRdfix_cases h
    · exact .inr (.head _)
    · exact .inr (.tail _ (.head _))
    · exact .inl hs
  | fmtEnc a b =>
    obtain ⟨_, rfl⟩ | ⟨_, _, ⟨_, rfl⟩ | ⟨_, rfl⟩⟩ := execFmtEnc_cases h
    · exact .inr (.head _)
    · exact .inr (.tail _ (.head _))
    · exact .inl hs
  | fmtBch b =>
    obtain ⟨_, rfl⟩ | ⟨_, rfl⟩ := execFmtBch_cases h
    · exact .inr (.head _)
    · exact .inl hs

/-! ## Each error is raised -/

/-- With some operands the operation, in some state with ERR = 0, leaves the code `e` in ERR. -/
def CanRaise (i : Instr) (e : Nat) : Prop :=
  ∃ (j : Instr) (s t : State), opcOf j = opcOf i ∧ s.err = 0#4 ∧ exec j s = .next t ∧ t.err.toNat = e

theorem canRaise_of_exec (e : ErrorCode) (j : Instr) (s : State) (hj : opcOf j = opcOf i) (hs : s.err = 0#4)
    (h : exec j s = raise e s) : CanRaise i e.code.toNat :=
  ⟨j, s, raiseState e s, hj, hs, h, rfl⟩

/-- A full data buffer, one ECC codeword, a generator and a remainder, on a blank plane of version 1: its bit string of 2048 bits
is longer than the sequence of 420 positions. No run reaches it, its cells being unwritten; the checks read none of them. -/
def crowded : State := { State.reset with k := 255#8, n := 1#8, genv := true, remv := true, ver := 1#6 }

theorem countOf_crowded_lt : countOf crowded < bitLength crowded := by
  have hcount : countOf crowded = 420 := by decide +kernel
  rw [hcount]
  decide

theorem execZzRdfix_of_range {a b : Byte} (hv : s.ver ≠ 0#6) (h : sideOf s ≤ a.toNat ∨ sideOf s ≤ b.toNat) :
    execZzRdfix a b s = raise .range s := by
  rw [execZzRdfix, if_neg hv, if_pos h]

theorem execZzStart_of_badMode {b : Byte} (hb : 1 < b.toNat) (s : State) : execZzStart b s = raise .range s := if_pos hb

theorem execZzStart_of_unset {b : Byte} (hb : b.toNat ≤ 1) (hv : s.ver = 0#6) : execZzStart b s = raise .zzState s := by
  rw [execZzStart, if_neg (Nat.not_lt.mpr hb), if_pos hv]

theorem execZzStart_of_overflow (hv : s.ver ≠ 0#6) (hr : s.remv = true) (h : countOf s < bitLength s) :
    execZzStart 1#8 s = raise .zzOverflow s := by
  simp [execZzStart, hv, hr, h]

/-- Each code listed for an operation is raised by it, in the reset state or in `crowded`. -/
theorem canRaise_of_mem_raisable : ∀ (i : Instr) (e : Nat), e ∈ raisable i → CanRaise i e
  | .sysRdreg _, _, .head _ =>
    canRaise_of_exec .range (.sysRdreg 10#8) .reset rfl rfl (execSysRdreg_of_range (b := 10#8) (by decide) _)
  | .gfExp _, _, .head _ => canRaise_of_exec .range (.gfExp 512#16) .reset rfl rfl (execGfExp_of_gt (by decide) _)
  | .gfLog _, _, .head _ => canRaise_of_exec .logZero (.gfLog 0#8) .reset rfl rfl (execGfLog_zero .reset)
  | .rsSetn _, _, .head _ => canRaise_of_exec .range (.rsSetn 0#8) .reset rfl rfl (execRsSetn_of_range (.inl rfl))
  | .rsGen, _, .head _ => canRaise_of_exec .rsState .rsGen .reset rfl rfl (execRsGen_of_unset rfl)
  | .rsPush _, _, .head _ => canRaise_of_exec .rsFull (.rsPush 0#8) crowded rfl rfl (execRsPush_of_full rfl _)
  | .rsEnc, _, .head _ => canRaise_of_exec .rsState .rsEnc .reset rfl rfl (execRsEnc_of_missing (.inl rfl))
  | .rsRdgen _, _, .head _ => canRaise_of_exec .rsState (.rsRdgen 0#8) .reset rfl rfl (execRsRdgen_of_invalid rfl _)
  | .rsRdgen _, _, .tail _ (.head _) =>
    canRaise_of_exec .range (.rsRdgen 2#8) crowded rfl rfl (execRsRdgen_of_range rfl (by decide))
  | .rsRdrem _, _, .head _ => canRaise_of_exec .rsState (.rsRdrem 0#8) .reset rfl rfl (execRsRdrem_of_invalid rfl _)
  | .rsRdrem _, _, .tail _ (.head _) =>
    canRaise_of_exec .range (.rsRdrem 1#8) crowded rfl rfl (execRsRdrem_of_range rfl (by decide))
  | .rsRddat _, _, .head _ => canRaise_of_exec .range (.rsRddat 0#8) .reset rfl rfl (execRsRddat_of_range (by decide))
  | .rsRdbit _, _, .head _ => canRaise_of_exec .rsState (.rsRdbit 0#16) .reset rfl rfl (execRsRdbit_of_invalid rfl _)
  | .rsRdbit _, _, .tail _ (.head _) =>
    canRaise_of_exec .range (.rsRdbit 2048#16) crowded rfl rfl (execRsRdbit_of_range rfl (by decide))
  | .zzSetver _, _, .head _ => canRaise_of_exec .range (.zzSetver 0#8) .reset rfl rfl (execZzSetver_of_range (.inl rfl))
  | .zzFix _ _, _, .head _ => canRaise_of_exec .zzState (.zzFix 0#8 0#8) .reset rfl rfl (execZzFix_of_unset rfl _ _)
  | .zzFix _ _, _, .tail _ (.head _) =>
    canRaise_of_exec .range (.zzFix 21#8 0#8) crowded rfl rfl (execZzFix_of_range (by decide) (.inl (by decide)))
  | .zzStart _, _, .head _ => canRaise_of_exec .range (.zzStart 2#8) .reset rfl rfl (execZzStart_of_badMode (by decide) _)
  | .zzStart _, _, .tail _ (.head _) =>
    canRaise_of_exec .zzState (.zzStart 0#8) .reset rfl rfl (execZzStart_of_unset (by decide) rfl)
  | .zzStart _, _, .tail _ (.tail _ (.head _)) =>
    canRaise_of_exec .zzOverflow (.zzStart 1#8) crowded rfl rfl
      (execZzStart_of_overflow (by decide) rfl countOf_crowded_lt)
  | .zzNext, _, .head _ => canRaise_of_exec .zzState .zzNext .reset rfl rfl (execZzNext_of_idle (s := .reset) rfl)
  | .zzCount, _, .head _ => canRaise_of_exec .zzState .zzCount .reset rfl rfl (execZzCount_of_unset rfl)
  | .zzRdfix _ _, _, .head _ => canRaise_of_exec .zzState (.zzRdfix 0#8 0#8) .reset rfl rfl (execZzRdfix_of_unset rfl _ _)
  | .zzRdfix _ _, _, .tail _ (.head _) =>
    canRaise_of_exec .range (.zzRdfix 21#8 0#8) crowded rfl rfl (execZzRdfix_of_range (by decide) (.inl (by decide)))
  | .fmtEnc _ _, _, .head _ =>
    canRaise_of_exec .eccLevel (.fmtEnc 4#8 0#8) .reset rfl rfl (execFmtEnc_of_noLevel (a := 4#8) (by decide) 0#8 _)
  | .fmtEnc _ _, _, .tail _ (.head _) =>
    canRaise_of_exec .range (.fmtEnc 0#8 8#8) .reset rfl rfl
      (execFmtEnc_of_range (a := 0#8) (b := 8#8) (by decide) (by decide) _)
  | .fmtBch _, _, .head _ => canRaise_of_exec .range (.fmtBch 32#8) .reset rfl rfl (execFmtBch_of_range (by decide) _)

end Sys2Proof.Machine

namespace Sys2Proof.Proofs

open Sys2Proof.Machine Sys2Proof.Spec

/-- Settles O9: in the error state every word but that of SYS.RESET is ignored, so no other word changes ERR. -/
theorem errorStateLeftOnlyByReset : Obligations.ErrorStateLeftOnlyByReset := by
  unfold Obligations.ErrorStateLeftOnlyByReset
  refine fun s he => ⟨fun cmd ms hm hcmd => step_ignored he hm hcmd, fun ms hm => ?_, fun ms hm => ?_, fun t ht hne => ?_⟩
  · exact ⟨_, step_sysReset hm, isReset_resetState_withRsp { s with moves := ms } _⟩
  · exact ⟨_, step_rst hm, isReset_resetState_withRsp { s with moves := ms } none⟩
  · exact (step_err_eq_or_reset he ht).resolve_left hne

/-- Settles O10: of the three ways an operation ends only the raise leaves ERR nonzero. -/
theorem raiseWritesErrOnly : Obligations.RaiseWritesErrOnly := by
  unfold Obligations.RaiseWritesErrOnly
  intro i s t hs h hne
  obtain ⟨e, rfl⟩ := ((exec_ends h).err_eq_zero_or_raised hs).resolve_left hne
  rfl

/-- Settles O11: operation by operation, what it raises is listed, and what is listed it raises. -/
theorem errorsRaisedExactly : Obligations.ErrorsRaisedExactly := by
  unfold Obligations.ErrorsRaisedExactly
  exact ⟨fun _ _ _ => exec_err_mem_raisable, canRaise_of_mem_raisable⟩

end Sys2Proof.Proofs
end

section
/-!
PROOFS. A step always answers a next state (70_reset_and_hazards R313): a check raises or passes, the cells an operation reads hold
values (10_state R24 items 2 and 3), and ZZ.NEXT's scan ends (42_zigzag R215).
-/

namespace Sys2Proof.Machine

variable {s : State}

/-- The outcome is a next state: no fault of the model and no refusal. -/
def Answers (o : Host.Outcome State Fault Refusal) : Prop := ∃ t, o = .next t

/-- A check of an operation raises, which answers, or goes on to what follows it. -/
theorem answers_check {c : Prop} [Decidable c] {e : ErrorCode} {o : Host.Outcome State Fault Refusal}
    (h : ¬c → Answers o) : Answers (if c then raise e s else o) := by
  split
  · exact ⟨_, rfl⟩
  · next hc => exact h hc

/-- Reading a cell that holds a value answers. -/
theorem answers_respondCell {space : Space} {v : Option Byte} (h : ∃ b, v = some b) :
    Answers (respondCell space v s) := by
  obtain ⟨b, rfl⟩ := h
  exact ⟨_, rfl⟩

/-! ## The cells an operation reads -/

/-- Each cell of a bulk read that answers holds a value. -/
theorem exists_read_of_readCells {m : Memory 8} {n i : Nat} (h : (readCells m 0 n).isSome = true) (hi : i < n) :
    ∃ v, Memory.read unlistedByte m i = some v := by
  obtain ⟨vs, hvs⟩ := Option.isSome_iff_exists.mp h
  obtain ⟨hlen, hread⟩ := readCells_eq_some.mp hvs
  have hcell := hread i hi
  rw [Nat.zero_add, List.getElem?_eq_getElem (by omega)] at hcell
  exact ⟨_, hcell⟩

/-- With GENV = 1 the coefficients GEN[0..N] hold values (10_state R24 item 2). -/
theorem Inv.exists_read_gen (h : Inv s) (hg : s.genv = true) {i : Nat} (hi : i ≤ s.n.toNat) :
    ∃ v, Memory.read unlistedByte s.gen i = some v :=
  exists_read_of_readCells (Option.isSome_of_eq_some (h.generator hg).2) (Nat.lt_succ_of_le hi)

/-- With REMV = 1 the codewords REM[0..N-1] hold values (10_state R24 item 3). -/
theorem Inv.exists_read_rem (h : Inv s) (hr : s.remv = true) {i : Nat} (hi : i < s.n.toNat) :
    ∃ v, Memory.read unlistedByte s.rem i = some v := by
  obtain ⟨-, -, data, -, hrem⟩ := h.remainder hr
  exact exists_read_of_readCells (Option.isSome_of_eq_some hrem) hi

/-! ## The operations -/

theorem execSysRdreg_answers (b : Byte) (s : State) : Answers (execSysRdreg b s) := by
  cases hv : regs s b with
  | some v => exact ⟨_, execSysRdreg_of_register hv⟩
  | none => rw [execSysRdreg, hv]; exact ⟨_, rfl⟩

theorem execGfLog_answers (b : Byte) (s : State) : Answers (execGfLog b s) := by
  unfold execGfLog
  split <;> exact ⟨_, rfl⟩

theorem execFmtEnc_answers (a b : Byte) (s : State) : Answers (execFmtEnc a b s) := by
  unfold execFmtEnc
  split
  · exact ⟨_, rfl⟩
  · exact answers_check fun _ => ⟨_, rfl⟩

section Operations

variable (h : Inv s)

include h

/-- RS.ENC reads the data pushed and the generator its check asks for. -/
theorem Inv.execRsEnc_answers : Answers (execRsEnc s) := by
  by_cases hmissing : s.genv = false ∨ s.k = 0#8
  · exact ⟨_, execRsEnc_of_missing hmissing⟩
  · obtain ⟨hg, hk⟩ := not_or.mp hmissing
    have hg : s.genv = true := by simpa using hg
    obtain ⟨data, hdata⟩ := Option.isSome_iff_exists.mp h.pushed
    exact ⟨_, execRsEnc_of_ready hg hk hdata (h.generator hg).2⟩

theorem Inv.execRsRdgen_answers (b : Byte) : Answers (execRsRdgen b s) :=
  answers_check fun hg => answers_check fun hb =>
    answers_respondCell (h.exists_read_gen (by simpa using hg) (Nat.not_lt.mp hb))

theorem Inv.execRsRdrem_answers (b : Byte) : Answers (execRsRdrem b s) :=
  answers_check fun hr => answers_check fun hb =>
    answers_respondCell (h.exists_read_rem (by simpa using hr) (Nat.not_le.mp hb))

theorem Inv.execRsRddat_answers (b : Byte) : Answers (execRsRddat b s) :=
  answers_check fun hb => answers_respondCell (exists_read_of_readCells h.pushed (Nat.not_le.mp hb))

/-- RS.RDBIT reads a codeword inside the length, with a remainder (20_memory R65). -/
theorem Inv.execRsRdbit_answers (w : Half) : Answers (execRsRdbit w s) := by
  cases hr : s.remv with
  | false => exact ⟨_, execRsRdbit_of_invalid hr w⟩
  | true =>
    rcases Nat.lt_or_ge w.toNat (bitLength s) with hw | hw
    · have hj : w.toNat / 8 < s.k.toNat + s.n.toNat := Nat.div_lt_of_lt_mul hw
      obtain ⟨c, hc⟩ := h.exists_codeword hr hj
      exact ⟨_, execRsRdbit_of_codeword hr hw hc⟩
    · exact ⟨_, execRsRdbit_of_range hr hw⟩

/-- ZZ.NEXT under way finds a position, whose value exists, or the end: its scan does not leave the grid (42_zigzag R215). -/
theorem Inv.execZzNext_answers : Answers (execZzNext s) := by
  cases hz : s.zst with
  | idle => exact ⟨_, execZzNext_of_idle hz⟩
  | done => exact ⟨_, execZzNext_of_done hz⟩
  | run =>
    obtain ⟨hodd, -, -, -⟩ := h.side (h.ver_ne_zero hz)
    obtain ⟨hpair, hstep, -⟩ := h.running hz
    cases hscan : scan (sideOf s) (isFixed s) (scanFuel (sideOf s)) (cursorOf s) with
    | found p c =>
      obtain ⟨v, hv, -⟩ := h.exists_placeValue (by rw [hz]; nofun)
      exact ⟨_, execZzNext_of_found hz hscan hv⟩
    | atEnd c => exact ⟨_, execZzNext_of_atEnd hz hscan⟩
    | offGrid => exact absurd hscan (scan_ne_offGrid hodd hpair hstep)

/-- Every operation answers from a state that meets the invariants. -/
theorem Inv.exec_answers : ∀ i : Instr, Answers (exec i s)
  | .sysNop | .sysReset | .gfAdd _ _ | .gfMul _ _ | .gfPow _ _ | .rsClr => ⟨_, rfl⟩
  | .gfExp _ | .rsSetn _ | .rsGen | .rsPush _ | .zzSetver _ | .zzCount | .fmtBch _ => answers_check fun _ => ⟨_, rfl⟩
  | .zzFix _ _ | .zzRdfix _ _ => answers_check fun _ => answers_check fun _ => ⟨_, rfl⟩
  | .zzStart _ =>
    answers_check fun _ => answers_check fun _ => answers_check fun _ => answers_check fun _ => ⟨_, rfl⟩
  | .sysRdreg b => execSysRdreg_answers b s
  | .gfLog b => execGfLog_answers b s
  | .fmtEnc a b => execFmtEnc_answers a b s
  | .rsEnc => h.execRsEnc_answers
  | .rsRdgen b => h.execRsRdgen_answers b
  | .rsRdrem b => h.execRsRdrem_answers b
  | .rsRddat b => h.execRsRddat_answers b
  | .rsRdbit w => h.execRsRdbit_answers w
  | .zzNext => h.execZzNext_answers

/-- Every command word answers: illegal, by its operation, or ignored. -/
theorem Inv.transact_answers (cmd : Word) : Answers (transact cmd s) := by
  cases hd : decode cmd with
  | illegal why =>
    rw [transact_illegal hd]
    exact answers_check fun _ => ⟨_, rfl⟩
  | instr i =>
    by_cases hs : s.err = 0#4 ∨ i = .sysReset
    · rw [transact_legal hd hs]
      exact h.exec_answers i
    · obtain ⟨he, hi⟩ := not_or.mp hs
      have hreset : decode cmd ≠ .instr .sysReset := fun hr => hi (Decoded.instr.inj (hd.symm.trans hr))
      exact ⟨_, transact_ignored hreset he⟩

end Operations

/-! ## A step -/

/-- Without a move the block is idle (70_reset_and_hazards R301). -/
theorem step_idle (hm : s.moves = []) : step s = .next s := by
  simp [step, serve, hm]

/-- A take removes the response and nothing else (10_state R46). -/
theorem step_take {ms : List HostMove} (hm : s.moves = .take :: ms) :
    step s = .next { s with moves := ms, rsp := none } := by
  simp [step, serve, hm]

/-- Every move of the host is served from a state that meets the invariants. -/
theorem Inv.step_answers (h : Inv s) : Answers (step s) := by
  match hm : s.moves with
  | [] => exact ⟨_, step_idle hm⟩
  | .rst :: ms => exact ⟨_, step_rst hm⟩
  | .issue cmd :: ms =>
    rw [step_issue hm]
    exact (h.withMoves ms).transact_answers cmd
  | .take :: ms => exact ⟨_, step_take hm⟩

end Sys2Proof.Machine

namespace Sys2Proof.Proofs

open Sys2Proof.Machine

/-- Settles O8: no move is served as idling, a take as dropping the response. -/
theorem idleAndTake : Obligations.IdleAndTake := by
  unfold Obligations.IdleAndTake
  exact fun s => ⟨step_idle, fun ms => step_take⟩

/-- Settles O17: every check raises or passes, every cell read holds a value, and every scan ends. -/
theorem stepAlwaysAnswers : Obligations.StepAlwaysAnswers := by
  unfold Obligations.StepAlwaysAnswers
  exact fun _ h => h.step_answers

end Sys2Proof.Proofs
end
